-- ==== Sys2Proof/Config.lean ====
section
/-!
DEFINITION. The build parameters of CORE (spec/00_scope.md R7 to R9, spec/92_eei_decisions.md D1, D7, D18, D22, D29),
which are fixed when the block is made and are an argument of the model, and the constants the spec derives from them.
Every definition that depends on one of them takes the build as an argument. `Config.build` is the build of the spec's
defaults, the one the machine behind the host's interface is made of (DESIGN CHOICE, notes/assumptions/1.md).
-/

namespace Sys2Proof

/-- R7 to R9: the build parameters, each with the default the spec gives it. -/
structure Build where
  /-- R7: the width of a word in bits. -/
  W : Nat := 32
  /-- R7: the number of fraction bits of a fixed-point word. -/
  F : Nat := 16
  /-- R8: how many band pipelines exist. -/
  MAXBANDS : Nat := 8
  /-- R8: how many Goertzel bins exist in each band. -/
  MAXBINS : Nat := 256
  /-- R8: how many envelope followers the register map has room for. -/
  MAXENV : Nat := 4
  /-- R8: how many envelope followers are built. -/
  NE : Nat := 1
  /-- R8: the number of flux-history slots. -/
  WIN : Nat := 5
  /-- R9: the width of the raw sample in bits. -/
  ADC_BITS : Nat := 16
  /-- R9: the left shift that turns a raw sample into a fixed-point reading. -/
  IN_SHIFT : Nat := 0
deriving DecidableEq, Repr

/-- R7: the number formats the spec admits. -/
abbrev Build.FormatLegal (p : Build) : Prop := 32 ≤ p.W ∧ 2 ≤ p.F ∧ p.F ≤ p.W - 3

/-- R8: the capacities the spec admits. -/
abbrev Build.CapacitiesLegal (p : Build) : Prop :=
  1 ≤ p.NE ∧ p.NE ≤ p.MAXENV ∧ p.WIN % 2 = 1 ∧ 1 ≤ p.WIN ∧ p.WIN ≤ 7

/-- R9: the sample inputs the spec admits. -/
abbrev Build.InputLegal (p : Build) : Prop := 1 ≤ p.ADC_BITS ∧ p.ADC_BITS ≤ p.W - 1 ∧ p.IN_SHIFT ≤ p.F

/-- The capacities for which the register map of R62 gives every register an address of its own, in 16 bits. DEDUCED from the
map's addresses (notes/assumptions/1.md): the spec states no upper bound of `MAXBANDS`, `MAXBINS` and `MAXENV`. -/
abbrev Build.MapFits (p : Build) : Prop :=
  1 ≤ p.MAXBANDS ∧ p.MAXBANDS ≤ 15 ∧ 1 ≤ p.MAXBINS ∧ p.MAXBINS ≤ 256 ∧ p.MAXENV ≤ 8

/-- R7 to R9: the builds the rules speak of. -/
abbrev Build.Legal (p : Build) : Prop := p.FormatLegal ∧ p.CapacitiesLegal ∧ p.InputLegal ∧ p.MapFits

/-- R7: `FX_MAX = 2^(W-1)-1`. -/
def Build.FX_MAX (p : Build) : Int := Int.ofNat (Nat.pow 2 (p.W - 1)) - 1

/-- R7: `FX_MIN = -2^(W-1)`. -/
def Build.FX_MIN (p : Build) : Int := -Int.ofNat (Nat.pow 2 (p.W - 1))

/-- R7: `ONE = 2^F`, the reading of the value 1.0. -/
def Build.ONE (p : Build) : Int := Int.ofNat (Nat.pow 2 p.F)

/-- R7: `NMAX = 2^(W-1-F) - 1`, the largest integer `FX.FROMINT` converts without saturating. -/
def Build.NMAX (p : Build) : Nat := Nat.pow 2 (p.W - 1 - p.F) - 1

/-- R7 to R9: the build of the spec's defaults. -/
abbrev Config.build : Build := {}

end Sys2Proof
end

