-- ==== Sys2Proof/Word.lean ====
section
/-!
DEFINITION. The word types of CORE (spec/00_scope.md R7, R13; spec/20_memory.md R60).
A register holds a bit pattern; its signed reading `s(REG)` is `BitVec.toInt`, its unsigned reading
`u(REG)` is `BitVec.toNat`.
-/

namespace Sys2Proof

/-- R7, R13: a `W`-bit word of a build. -/
abbrev WordOf (p : Build) := BitVec p.W

/-- R7, R13: a word of the default build. -/
abbrev Word := WordOf Config.build

/-- R60: an address of the register map names one whole word. -/
abbrev Addr := BitVec 16

/-- R15, R193: a word of the gain-amplifier bus. -/
abbrev BusWord := BitVec 16

end Sys2Proof
end

