-- ==== Sys2Proof/Syntax.lean ====
section
/-!
DEFINITION. The nineteen commands of CORE (spec/30_encoding.md R93), one constructor per row of
spec/opcode_table.json. An index field is the unsigned integer the command word carries (R92): `b` a band,
`e` an envelope, `j` a bin. There are no immediates and no other operands (R92).
-/

namespace Sys2Proof

/-- R93: one command of CORE. -/
inductive Instr where
  /-- `INIT`, R200. -/
  | init
  /-- `SAMPLE`, R203. -/
  | sample
  /-- `TAKE b`, R208. -/
  | take (b : Nat)
  /-- `FX.MUL`, R111. -/
  | fxMul
  /-- `FX.RCP`, R112. -/
  | fxRcp
  /-- `FX.ABS`, R113. -/
  | fxAbs
  /-- `FX.SQRT`, R114. -/
  | fxSqrt
  /-- `FX.ADD`, R115. -/
  | fxAdd
  /-- `FX.SUB`, R116. -/
  | fxSub
  /-- `FX.FROMINT`, R117. -/
  | fxFromint
  /-- `FX.TOINT`, R118. -/
  | fxToint
  /-- `DCB.UPD`, R141. -/
  | dcbUpd
  /-- `ENV.UPD e`, R151. -/
  | envUpd (e : Nat)
  /-- `GZ.UPD b, j`, R163. -/
  | gzUpd (b j : Nat)
  /-- `BANK.UPD b`, R165. -/
  | bankUpd (b : Nat)
  /-- `BANK.AGG b`, R166. -/
  | bankAgg (b : Nat)
  /-- `FLUX.UPD b`, R182. -/
  | fluxUpd (b : Nat)
  /-- `FLUX.ONSET b`, R184. -/
  | fluxOnset (b : Nat)
  /-- `AGC.TICK`, R191. -/
  | agcTick
deriving DecidableEq, Repr

/-- R90, R93: the two command registers a command word can be written to. -/
inductive CmdReg where
  /-- `CMD`, the producer's command register (port P). -/
  | cmd
  /-- `CCMD`, the consumer's command register (port C). -/
  | ccmd
deriving DecidableEq, Repr

end Sys2Proof
end

