-- ==== Sys2Proof/WellFormed.lean ====
section
/-!
DEFINITION. Which commands have a command word (spec/30_encoding.md R91, R92): an index is an unsigned
8-bit field. Whether an index names a unit that is in use is no matter of the encoding; R96 checks it when
the command runs.
-/

namespace Sys2Proof

/-- R91: the field `u` (bits 23:16) or `j` (bits 15:8) can carry `n`. -/
def fitsIndexField (n : Nat) : Bool := decide (n < 256)

/-- R91, R92: every index of the command fits its 8-bit field. -/
def Instr.wellFormed : Instr → Bool
  | .init => true
  | .sample => true
  | .take b => fitsIndexField b
  | .fxMul => true
  | .fxRcp => true
  | .fxAbs => true
  | .fxSqrt => true
  | .fxAdd => true
  | .fxSub => true
  | .fxFromint => true
  | .fxToint => true
  | .dcbUpd => true
  | .envUpd e => fitsIndexField e
  | .gzUpd b j => fitsIndexField b && fitsIndexField j
  | .bankUpd b => fitsIndexField b
  | .bankAgg b => fitsIndexField b
  | .fluxUpd b => fitsIndexField b
  | .fluxOnset b => fitsIndexField b
  | .agcTick => true

end Sys2Proof
end

