-- ==== Sys2Proof/Decode.lean ====
section
/-!
DEFINITION. The command decoder (spec/30_encoding.md R90 step 1, R91 to R94), total on every 32-bit word
and both command registers, and the encoder written from the same table. A word that is no instance of a
row of R93 decodes to `none`; R94 says what the machine then does (`CMD_ILLEGAL`).
-/

namespace Sys2Proof

/-- R13: `v[hi:lo]`, read as an unsigned integer. -/
def slice (hi lo v : Nat) : Nat := v / 2 ^ lo % 2 ^ (hi + 1 - lo)

/-- R91: `op`, bits 31:24. -/
def opField (cw : BitVec 32) : Nat := slice 31 24 cw.toNat

/-- R91: `u`, bits 23:16. -/
def uField (cw : BitVec 32) : Nat := slice 23 16 cw.toNat

/-- R91: `j`, bits 15:8. -/
def jField (cw : BitVec 32) : Nat := slice 15 8 cw.toNat

/-- R91: `z`, bits 7:0. -/
def zField (cw : BitVec 32) : Nat := slice 7 0 cw.toNat

/-- R93: a row that marks `u` and `j` "0". -/
def rowPlain (u j : Nat) (i : Instr) : Option Instr := if u = 0 ∧ j = 0 then some i else none

/-- R93: a row whose `u` is an index and that marks `j` "0". -/
def rowUnit (u j : Nat) (i : Nat → Instr) : Option Instr := if j = 0 then some (i u) else none

/-- R93: the rows whose command register is `CMD`. -/
def decodeCmd (op u j : Nat) : Option Instr :=
  match op with
  | 0x01 => rowPlain u j .init
  | 0x02 => rowPlain u j .sample
  | 0x10 => rowPlain u j .fxMul
  | 0x11 => rowPlain u j .fxRcp
  | 0x12 => rowPlain u j .fxAbs
  | 0x13 => rowPlain u j .fxSqrt
  | 0x14 => rowPlain u j .fxAdd
  | 0x15 => rowPlain u j .fxSub
  | 0x16 => rowPlain u j .fxFromint
  | 0x17 => rowPlain u j .fxToint
  | 0x20 => rowPlain u j .dcbUpd
  | 0x30 => rowUnit u j .envUpd
  | 0x40 => some (.gzUpd u j)
  | 0x50 => rowUnit u j .bankUpd
  | 0x51 => rowUnit u j .bankAgg
  | 0x60 => rowUnit u j .fluxUpd
  | 0x61 => rowUnit u j .fluxOnset
  | 0x70 => rowPlain u j .agcTick
  | _ => none

/-- R93: the rows whose command register is `CCMD`. -/
def decodeCcmd (op u j : Nat) : Option Instr :=
  match op with
  | 0x03 => rowUnit u j .take
  | _ => none

/-- R90 step 1, R94: the command that the word `cw` written to the register `reg` stands for. -/
def decode (reg : CmdReg) (cw : BitVec 32) : Option Instr :=
  if zField cw = 0 then
    match reg with
    | .cmd => decodeCmd (opField cw) (uField cw) (jField cw)
    | .ccmd => decodeCcmd (opField cw) (uField cw) (jField cw)
  else none

/-- R93: the command register a command's word is written to. -/
def Instr.cmdReg : Instr → CmdReg
  | .init => .cmd
  | .sample => .cmd
  | .take _ => .ccmd
  | .fxMul => .cmd
  | .fxRcp => .cmd
  | .fxAbs => .cmd
  | .fxSqrt => .cmd
  | .fxAdd => .cmd
  | .fxSub => .cmd
  | .fxFromint => .cmd
  | .fxToint => .cmd
  | .dcbUpd => .cmd
  | .envUpd _ => .cmd
  | .gzUpd _ _ => .cmd
  | .bankUpd _ => .cmd
  | .bankAgg _ => .cmd
  | .fluxUpd _ => .cmd
  | .fluxOnset _ => .cmd
  | .agcTick => .cmd

/-- R93: a command's operation code. -/
def Instr.op : Instr → Nat
  | .init => 0x01
  | .sample => 0x02
  | .take _ => 0x03
  | .fxMul => 0x10
  | .fxRcp => 0x11
  | .fxAbs => 0x12
  | .fxSqrt => 0x13
  | .fxAdd => 0x14
  | .fxSub => 0x15
  | .fxFromint => 0x16
  | .fxToint => 0x17
  | .dcbUpd => 0x20
  | .envUpd _ => 0x30
  | .gzUpd _ _ => 0x40
  | .bankUpd _ => 0x50
  | .bankAgg _ => 0x51
  | .fluxUpd _ => 0x60
  | .fluxOnset _ => 0x61
  | .agcTick => 0x70

/-- R93: the value of a command's `u` field. -/
def Instr.u : Instr → Nat
  | .init => 0
  | .sample => 0
  | .take b => b
  | .fxMul => 0
  | .fxRcp => 0
  | .fxAbs => 0
  | .fxSqrt => 0
  | .fxAdd => 0
  | .fxSub => 0
  | .fxFromint => 0
  | .fxToint => 0
  | .dcbUpd => 0
  | .envUpd e => e
  | .gzUpd b _ => b
  | .bankUpd b => b
  | .bankAgg b => b
  | .fluxUpd b => b
  | .fluxOnset b => b
  | .agcTick => 0

/-- R93: the value of a command's `j` field. -/
def Instr.j : Instr → Nat
  | .init => 0
  | .sample => 0
  | .take _ => 0
  | .fxMul => 0
  | .fxRcp => 0
  | .fxAbs => 0
  | .fxSqrt => 0
  | .fxAdd => 0
  | .fxSub => 0
  | .fxFromint => 0
  | .fxToint => 0
  | .dcbUpd => 0
  | .envUpd _ => 0
  | .gzUpd _ j => j
  | .bankUpd _ => 0
  | .bankAgg _ => 0
  | .fluxUpd _ => 0
  | .fluxOnset _ => 0
  | .agcTick => 0

/-- R91: a command's word. -/
def encode (i : Instr) : BitVec 32 :=
  BitVec.ofNat 32 (i.op * 2 ^ 24 + i.u * 2 ^ 16 + i.j * 2 ^ 8)

/-- The instruction the decoder reads from an opcode-table word of `nbits` bits (bit 0 the least
significant bit). A command is one 32-bit word (R91), so the bits above `nbits` and above 32 are none. A word
that is a command of `CMD` is read there, any other at `CCMD`: no word is a command of both (R93).
DESIGN CHOICE (notes/assumptions/8.md): the table word names no register; the row's own register is taken. -/
def decodeTableWord (nbits w : Nat) : Option Instr :=
  let cw := BitVec.ofNat 32 (w % 2 ^ nbits)
  match decode .cmd cw with
  | some i => some i
  | none => decode .ccmd cw

end Sys2Proof
end

