-- ==== Sys2Proof/Machine/Fixed.lean ====
section
/-!
DEFINITION. The arithmetic of CORE (spec/00_scope.md R14, R16; spec/40_fixedpoint_alu.md R110 to R119): the
mathematical primitives on unbounded integers, and the eight fixed-point functions on the integer readings of
words of a build. Each fixed-point function is the exact result, rounded toward minus infinity, then saturated (R110).
-/

namespace Sys2Proof.Machine

/-- R14: `sat(z)`. -/
def sat (p : Build) (z : Int) : Int :=
  if z < p.FX_MIN then p.FX_MIN else if p.FX_MAX < z then p.FX_MAX else z

/-- R14: floor division, `b ≠ 0`. (Lean's `/` on integers is floor division for a positive divisor.) -/
def fdiv (a b : Int) : Int := if b < 0 then -a / -b else a / b

/-- R14: `asr(z, k) = fdiv(z, 2^k)`. -/
def asr (z : Int) (k : Nat) : Int := fdiv z (Int.ofNat (Nat.pow 2 k))

/-- The root's bits `k - 1` down to 0, each set where the square still is at most `z`; `r` holds the bits above. -/
def isqrtBits (z : Nat) : Nat → Nat → Nat
  | 0, r => r
  | k + 1, r => isqrtBits z k (if (r + Nat.pow 2 k) * (r + Nat.pow 2 k) ≤ z then r + Nat.pow 2 k else r)

/-- R14: `isqrt(z)`, the largest integer whose square is at most `z`. -/
def isqrt (z : Nat) : Nat := isqrtBits z (Nat.log2 z / 2 + 1) 0

/-- R111: `fxmul`. -/
def fxmul (p : Build) (a b : Int) : Int := sat p (asr (a * b) p.F)

/-- R112: `fxrcp`; the reciprocal of zero is `FX_MAX`. -/
def fxrcp (p : Build) (a : Int) : Int :=
  if a = 0 then p.FX_MAX else sat p (fdiv (Int.ofNat (Nat.pow 2 (2 * p.F))) a)

/-- R113: `fxabs`. -/
def fxabs (p : Build) (a : Int) : Int := if a < 0 then sat p (-a) else a

/-- R114: `fxsqrt`; a negative operand is clamped to 0. -/
def fxsqrt (p : Build) (a : Int) : Int :=
  if a ≤ 0 then 0 else Int.ofNat (isqrt (a.toNat * Nat.pow 2 p.F))

/-- R115: `fxadd`. -/
def fxadd (p : Build) (a b : Int) : Int := sat p (a + b)

/-- R116: `fxsub`. -/
def fxsub (p : Build) (a b : Int) : Int := sat p (a - b)

/-- R117: `fxfromint`. -/
def fxfromint (p : Build) (m : Int) : Int := sat p (m * p.ONE)

/-- R118: `fxtoint`. -/
def fxtoint (p : Build) (a : Int) : Int := asr a p.F

/-- R13: the word whose signed reading is `z`, for a `z` that fits. -/
def word (p : Build) (z : Int) : WordOf p := BitVec.ofInt p.W z

/-- R204: `adc_to_fx`. -/
def adcToFx (p : Build) (raw : BitVec p.ADC_BITS) : Int := sat p (Int.ofNat (raw.toNat * Nat.pow 2 p.IN_SHIFT))

end Sys2Proof.Machine
end

