-- ==== Sys2Proof/Machine/Table.lean ====
section
/-!
DEFINITION. A register array (spec/10_state.md R38): cells numbered from 0, each holding a value, held as
the list of the (number, value) pairs that differ from the array's base value `d`, in ONE canonical form: numbers
strictly rising, and no value equal to `d`, which is what an unlisted cell reads as. A table carries the proof of that form,
so that two tables with the same cells are equal data. The base value is the cell's reset value where that is
one value for all cells (R40).
DESIGN CHOICE (notes/assumptions/5.md, safe): only the representation is the model's.
-/

namespace Sys2Proof.Machine

/-- The canonical form from cell `lo` on: numbers strictly rising and at least `lo`, no value equal to `d`. -/
def canonicalFrom {α : Type} (d : α) : Nat → List (Nat × α) → Prop
  | _, [] => True
  | lo, (k, v) :: rest => lo ≤ k ∧ v ≠ d ∧ canonicalFrom d (k + 1) rest

/-- A register array whose unlisted cells read as `d`. -/
structure Table (α : Type) (d : α) where
  /-- The listed cells. -/
  entries : List (Nat × α)
  /-- They are in canonical form. -/
  canonical : canonicalFrom d 0 entries
deriving DecidableEq, Repr

/-- The value of cell `k` among listed cells. -/
def getEntries {α : Type} (d : α) : List (Nat × α) → Nat → α
  | [], _ => d
  | (k', v) :: rest, k => if k = k' then v else getEntries d rest k

/-- Cell `k` holding `v`, before the listed cells `rest`: listed unless `v` is the base value. -/
def putEntry {α : Type} [DecidableEq α] (d : α) (k : Nat) (v : α) (rest : List (Nat × α)) :
    List (Nat × α) :=
  if v = d then rest else (k, v) :: rest

/-- The listed cells after `v` is written to cell `k`. -/
def setEntries {α : Type} [DecidableEq α] (d : α) : List (Nat × α) → Nat → α → List (Nat × α)
  | [], k, v => putEntry d k v []
  | (k', v') :: rest, k, v =>
    if k < k' then putEntry d k v ((k', v') :: rest)
    else if k = k' then putEntry d k v rest
    else (k', v') :: setEntries d rest k v

/-- The listed cells after the `m` cells `k`, `k + 1`, … are each replaced by `f` of their number and value.
The listed cells are in canonical form from `k` on. -/
def updEntries {α : Type} [DecidableEq α] (d : α) (f : Nat → α → α) :
    Nat → Nat → List (Nat × α) → List (Nat × α)
  | 0, _, l => l
  | m + 1, k, [] => putEntry d k (f k d) (updEntries d f m (k + 1) [])
  | m + 1, k, (k', v') :: rest =>
    if k' = k then putEntry d k (f k v') (updEntries d f m (k + 1) rest)
    else putEntry d k (f k d) (updEntries d f m (k + 1) ((k', v') :: rest))

section
variable {α : Type} {d : α}

theorem canonicalFrom_mono {lo lo' : Nat} {l : List (Nat × α)} (h : canonicalFrom d lo l)
    (hle : lo' ≤ lo) : canonicalFrom d lo' l := by
  cases l with
  | nil => trivial
  | cons e rest => exact ⟨Nat.le_trans hle h.1, h.2⟩

variable [DecidableEq α]

theorem canonicalFrom_putEntry {lo k : Nat} {v : α} {l : List (Nat × α)} (hlo : lo ≤ k)
    (h : canonicalFrom d (k + 1) l) : canonicalFrom d lo (putEntry d k v l) := by
  unfold putEntry
  split
  next => exact canonicalFrom_mono h (by omega)
  next hv => exact ⟨hlo, hv, h⟩

theorem canonicalFrom_setEntries {k : Nat} {v : α} {l : List (Nat × α)} :
    ∀ {lo : Nat}, lo ≤ k → canonicalFrom d lo l → canonicalFrom d lo (setEntries d l k v) := by
  induction l with
  | nil => intro lo hlo _; exact canonicalFrom_putEntry hlo trivial
  | cons e rest ih =>
    intro lo hlo h
    unfold setEntries
    split
    next hk => exact canonicalFrom_putEntry hlo ⟨hk, h.2⟩
    next hk =>
      split
      next hk' => exact canonicalFrom_putEntry hlo (hk' ▸ h.2.2)
      next hk' => exact ⟨h.1, h.2.1, ih (by omega) h.2.2⟩

theorem canonicalFrom_updEntries {f : Nat → α → α} {m : Nat} :
    ∀ {k : Nat} {l : List (Nat × α)}, canonicalFrom d k l → canonicalFrom d k (updEntries d f m k l) := by
  induction m with
  | zero => intro k l h; exact h
  | succ m ih =>
    intro k l h
    match l with
    | [] => exact canonicalFrom_putEntry (Nat.le_refl k) (ih trivial)
    | (k', v') :: rest =>
      unfold updEntries
      split
      next hk => exact canonicalFrom_putEntry (Nat.le_refl k) (ih (hk ▸ h.2.2))
      next hk =>
        have hle : k ≤ k' := h.1
        exact canonicalFrom_putEntry (Nat.le_refl k) (ih ⟨by omega, h.2⟩)

end

/-- A table all of whose cells hold the base value. -/
def Table.empty {α : Type} {d : α} : Table α d := ⟨[], trivial⟩

/-- The value of cell `k`. -/
def Table.get {α : Type} {d : α} (t : Table α d) (k : Nat) : α := getEntries d t.entries k

/-- The table after `v` is written to cell `k`. -/
def Table.set {α : Type} [DecidableEq α] {d : α} (t : Table α d) (k : Nat) (v : α) : Table α d :=
  ⟨setEntries d t.entries k v, canonicalFrom_setEntries (Nat.zero_le k) t.canonical⟩

/-- R15: "for k in 0 .. n-1", the table after each of these cells is replaced by `f` of its number and value. -/
def Table.updBelow {α : Type} [DecidableEq α] {d : α} (n : Nat) (f : Nat → α → α) (t : Table α d) : Table α d :=
  ⟨updEntries d f n 0 t.entries, canonicalFrom_updEntries t.canonical⟩

/-- The table whose first cells hold the values of a list. -/
def Table.ofList {α : Type} [DecidableEq α] {d : α} (l : List α) : Table α d :=
  Table.updBelow l.length (fun k _ => l.getD k d) Table.empty

/-- Every listed cell is numbered below `n`, so every cell from `n` on holds the base value. -/
def Table.boundedBy {α : Type} {d : α} (n : Nat) (t : Table α d) : Bool :=
  t.entries.all fun e => decide (e.1 < n)

end Sys2Proof.Machine
end

