-- ==== Sys2Proof/Machine/State.lean ====
section
/-!
DEFINITION. The state of CORE (spec/10_state.md R20 to R39) as plain data, the host operations that act on
it (spec/20_memory.md R60, R61; spec/70_reset_and_hazards.md R260), and the state after reset (R40).
Every register type takes the build (spec/00_scope.md R7 to R9) as an argument; `State` is that of `Config.build`.
CORE has no program counter, no memory, no stored program and no flags register (R22, R23, spec/20_memory.md
preamble). The last two fields of `State` are the MODEL's own: what the host has still to do, and what its
reads were answered.
-/

namespace Sys2Proof.Machine

/-- R24, R230: the mode, `STATUS.MODE`. -/
inductive Mode where
  /-- 0: after reset; configuration can be written. -/
  | unconfigured
  /-- 1: entered by a successful `INIT`. -/
  | running
  /-- 2: entered by an `INIT` whose checks fail. -/
  | failed
deriving DecidableEq, Repr

/-- R231: the error causes, `STATUS.CAUSE`. -/
inductive Cause where
  /-- 0: no error since reset. -/
  | none
  /-- 1: the loader's result only (R210). -/
  | cfgSampleRate
  /-- 2: `INIT`, or the loader: a block length is zero or above `NMAX`. -/
  | cfgBlocklen
  /-- 3: the loader's result only (R210). -/
  | cfgFreqRange
  /-- 4: `INIT`, or the loader: a bank size is zero or above `MAXBINS`. -/
  | cfgSize
  /-- 5: `INIT`, or the loader: the number of bands is zero or above `MAXBANDS`. -/
  | cfgNbands
  /-- 8: a command word that is no command of the register it was written to. -/
  | cmdIllegal
  /-- 9: a band, bin or envelope index out of range. -/
  | cmdIndex
  /-- 10: the mode does not admit the command. -/
  | cmdMode
  /-- 11: an unmapped address. -/
  | busAddr
  /-- 12: a write to a read-only or locked register, or from the wrong port. -/
  | busAccess
deriving DecidableEq, Repr

/-- R61: the two ports of the register map. -/
inductive Port where
  /-- Port P: the producer, and the loader before `INIT`. -/
  | p
  /-- Port C: the consumer. -/
  | c
deriving DecidableEq, Repr

/-- R12, R15, R260: one operation of the host or the environment on CORE. -/
inductive BusOp (p : Build) where
  /-- R64: `RegRead(addr)`. -/
  | read (port : Port) (addr : Addr)
  /-- R65: `RegWrite(addr, v)`; a write to a command register executes a command. -/
  | write (port : Port) (addr : Addr) (v : WordOf p)
  /-- R260: the reset event. -/
  | reset
deriving DecidableEq, Repr

/-- R64: what one `RegRead` returned to the host. -/
structure Answer (p : Build) where
  port : Port
  addr : Addr
  data : WordOf p
deriving DecidableEq, Repr

/-- R29: the registers of one envelope follower. -/
structure Env (p : Build) where
  /-- `ENV_ATK[e]` -/
  atk : WordOf p
  /-- `ENV_REL[e]` -/
  rel : WordOf p
  /-- `ENV_VAL[e]` -/
  val : WordOf p
deriving DecidableEq, Repr

/-- R40: an envelope follower after reset. -/
def Env.zero {p : Build} : Env p := { atk := 0, rel := 0, val := 0 }

/-- R30, R31, R33: the registers of one bin of one band. -/
structure Bin (p : Build) where
  /-- `COEF[b][j]` -/
  coef : WordOf p
  /-- `Q0[b][j]` -/
  q0 : WordOf p
  /-- `Q1[b][j]` -/
  q1 : WordOf p
  /-- `Q2[b][j]` -/
  q2 : WordOf p
  /-- `BLKPOS[b][j]` -/
  blkPos : WordOf p
  /-- `MAG[b][j]` -/
  mag : WordOf p
  /-- `PREVMAG[b][j]` -/
  prevMag : WordOf p
deriving DecidableEq, Repr

/-- R40: a bin after reset. -/
def Bin.zero {p : Build} : Bin p := { coef := 0, q0 := 0, q1 := 0, q2 := 0, blkPos := 0, mag := 0, prevMag := 0 }

/-- R30, R32, R33, R37: the registers of one band. -/
structure Band (p : Build) where
  /-- `BLOCKLEN[b]` -/
  blockLen : WordOf p
  /-- `SIZE[b]` -/
  size : WordOf p
  /-- `MAGSCALER[b]` -/
  magScaler : WordOf p
  /-- `SIZESCALER[b]` -/
  sizeScaler : WordOf p
  /-- The per-bin registers `COEF`, `Q0`, `Q1`, `Q2`, `BLKPOS`, `MAG`, `PREVMAG` of bins `0 .. MAXBINS-1`. -/
  bins : Table (Bin p) Bin.zero
  /-- `BANKRDY[b]` -/
  bankRdy : Bool
  /-- `FLUXHIST[b][k]`, slots `0 .. WIN-1`. -/
  fluxHist : Table (WordOf p) 0
  /-- `WRIDX[b]` -/
  wrIdx : WordOf p
  /-- `OUT_MAG[b]` -/
  outMag : WordOf p
  /-- `OUT_ONSET[b]` -/
  outOnset : Bool
  /-- `OUT_READY[b]` -/
  outReady : Bool
  /-- `OUT_OVERRUN[b]` -/
  outOverrun : WordOf p
  /-- `TK_MAG[b]` -/
  tkMag : WordOf p
  /-- `TK_ONSET[b]` -/
  tkOnset : Bool
  /-- `TK_READY[b]` -/
  tkReady : Bool
deriving DecidableEq, Repr

/-- R40: a band after reset. -/
def Band.zero {p : Build} : Band p :=
  { blockLen := 0, size := 0, magScaler := 0, sizeScaler := 0, bins := Table.empty, bankRdy := false,
    fluxHist := Table.empty, wrIdx := 0, outMag := 0, outOnset := false, outReady := false,
    outOverrun := 0, tkMag := 0, tkOnset := false, tkReady := false }

namespace AnyBuild

/-- R20: the whole state of CORE in the build `p`, and with it the host's side of the interface. -/
structure State (p : Build) where
  /-- `STATUS.MODE` (R24). -/
  mode : Mode
  /-- `STATUS.CAUSE` (R24, R231). -/
  cause : Cause
  /-- Operand register `A` (R21). -/
  a : WordOf p
  /-- Operand register `B` (R21). -/
  b : WordOf p
  /-- Word result register `R` (R21). -/
  r : WordOf p
  /-- Boolean result register `T` (R21). -/
  t : Bool
  /-- `SAMPLE_IN` (R26). -/
  sampleIn : BitVec p.ADC_BITS
  /-- `CTRL.AGG_NORM` (R27). -/
  aggNorm : Bool
  /-- `NBANDS` (R27). -/
  nbands : WordOf p
  /-- `DCB_A0` (R28). -/
  dcbA0 : WordOf p
  /-- `DCB_BIAS` (R28). -/
  dcbBias : WordOf p
  /-- `ENV_ATK[e]`, `ENV_REL[e]`, `ENV_VAL[e]` (R29). -/
  envs : Table (Env p) Env.zero
  /-- The registers of bands `0 .. MAXBANDS-1` (R30 to R33, R37). -/
  bands : Table (Band p) Band.zero
  /-- `AGC_LOW` (R34). -/
  agcLow : WordOf p
  /-- `AGC_HIGH` (R34). -/
  agcHigh : WordOf p
  /-- `AGC_HOLD` (R34). -/
  agcHold : WordOf p
  /-- `AGC_SWTAB[k]`, `0 <= k <= 7` (R34). -/
  agcSwtab : Table (WordOf p) 0
  /-- `AGC_HOLDCNT` (R35). -/
  agcHoldcnt : WordOf p
  /-- `AGC_STEP` (R35). -/
  agcStep : BitVec 3
  /-- `AGC_SWGAIN` (R35). -/
  agcSwgain : WordOf p
  /-- `GBUS_LAST` (R36). -/
  gbusLast : BusWord
  /-- The output event sequence `GainBus`, oldest first (R36, R193). -/
  gainBus : List BusWord
  /-- MODEL FIELD: the host operations still to come, the next one first (notes/assumptions/2.md). -/
  pending : List (BusOp p)
  /-- MODEL FIELD: what the host's reads returned, oldest first (notes/assumptions/4.md). -/
  answers : List (Answer p)
deriving DecidableEq, Repr

end AnyBuild

/-- The state of CORE in the build `p`. -/
abbrev StateOf := AnyBuild.State

/-- The state of CORE in the build of the spec's defaults. -/
abbrev State := StateOf Config.build

/-- The reasons a step can stop with a fault: none. V4 (spec/93_implementation_defined.md): "never `fault`"; R262:
the rules "define a result for every state reachable from reset by any sequence of operations". -/
inductive Fault where
deriving DecidableEq, Repr

/-- The reasons a step can be refused. -/
inductive Refusal where
  /-- An arm of `exec` without a meaning raises it; no arm does. Safe: the machine stops. -/
  | notModelled (mnemonic : String)
deriving DecidableEq, Repr

/-- R194: the shifts `s` of the reset software-gain table. -/
def swtabShifts : List Nat := [10, 8, 6, 5, 4, 3, 2, 0]

/-- R40, R194: `AGC_SWTAB[0..7]` after reset, `ONE * 2^s`, saturated in a build where that does not fit a word
(DESIGN CHOICE, notes/assumptions/1.md). -/
def swtabReset (p : Build) : Table (WordOf p) 0 :=
  Table.ofList (swtabShifts.map fun s => word p (sat p (p.ONE * Int.ofNat (Nat.pow 2 s))))

/-- R40, R260: CORE in the build `p` right after reset. -/
def resetState (p : Build) : StateOf p :=
  { mode := .unconfigured
    cause := .none
    a := 0
    b := 0
    r := 0
    t := false
    sampleIn := 0
    aggNorm := false
    nbands := 0
    dcbA0 := 0
    dcbBias := 0
    envs := Table.empty
    bands := Table.empty
    agcLow := BitVec.ofNat p.W 0x00000400
    agcHigh := BitVec.ofNat p.W 0x00002000
    agcHold := 0
    agcSwtab := swtabReset p
    agcHoldcnt := 0
    agcStep := 0
    agcSwgain := (swtabReset p).get 0
    gbusLast := 0
    gainBus := []
    pending := []
    answers := [] }

/-- R40, R260: the machine right after reset. -/
def State.reset : State := resetState Config.build

end Sys2Proof.Machine
end

