-- ==== Sys2Proof/Machine/Flags.lean ====
section
/-!
DEFINITION. CORE has no condition codes and no arithmetic flags (spec/10_state.md R23): nothing an operation
computes is recorded but what its rule writes. What stands here in a flags file's place: the layout of `STATUS`
(R24) with the codes of the modes (R230) and causes (R231), the reading of a one-bit register (R64), and the modes
that admit each kind of command (spec/30_encoding.md R95).
-/

namespace Sys2Proof.Machine

variable {p : Build}

/-- R24, R230: the code of a mode. -/
def Mode.code : Mode → Nat
  | .unconfigured => 0
  | .running => 1
  | .failed => 2

/-- R231: the code of a cause. -/
def Cause.code : Cause → Nat
  | .none => 0
  | .cfgSampleRate => 1
  | .cfgBlocklen => 2
  | .cfgFreqRange => 3
  | .cfgSize => 4
  | .cfgNbands => 5
  | .cmdIllegal => 8
  | .cmdIndex => 9
  | .cmdMode => 10
  | .busAddr => 11
  | .busAccess => 12

/-- R24: the word `STATUS` reads as: `MODE` in bits 1:0, `CAUSE` in bits 15:8, every other bit 0. -/
def statusWord (s : StateOf p) : WordOf p := BitVec.ofNat p.W (s.mode.code + 2 ^ 8 * s.cause.code)

/-- R64: a one-bit register reads as 0 or 1. -/
def bitWord (p : Build) (x : Bool) : WordOf p := if x then 1 else 0

/-- R95: the modes that admit the `FX` commands. -/
def admitAlu (m : Mode) : Bool := decide (m = .unconfigured) || decide (m = .running)

/-- R95: the modes that admit `INIT`. -/
def admitInit (m : Mode) : Bool := decide (m = .unconfigured)

/-- R95: the modes that admit every other command. -/
def admitRunning (m : Mode) : Bool := decide (m = .running)

end Sys2Proof.Machine
end

