-- ==== Sys2Proof/Machine/Operands.lean ====
section
/-!
DEFINITION. The operand forms of CORE (spec/30_encoding.md R92, R96; spec/20_memory.md R69): a command takes its
word operands from `A` and `B`, and reaches a band, an envelope or a bin by an index of its command word, which
must be in range. No address is computed from data.
-/

namespace Sys2Proof.Machine

variable {p : Build}

/-- R110: `s(A)`. -/
def opA (s : StateOf p) : Int := s.a.toInt

/-- R110: `s(B)`. -/
def opB (s : StateOf p) : Int := s.b.toInt

/-- R38: the registers of band `b`. -/
def band (s : StateOf p) (b : Nat) : Band p := s.bands.get b

/-- R38: the registers of bin `j` of band `b`. -/
def bin (s : StateOf p) (b j : Nat) : Bin p := (s.bands.get b).bins.get j

/-- R29: the registers of envelope `e`. -/
def env (s : StateOf p) (e : Nat) : Env p := s.envs.get e

/-- R96: a band index must satisfy `bb < NBANDS`. -/
def bandInRange (s : StateOf p) (b : Nat) : Bool := decide (b < s.nbands.toNat)

/-- R96: a bin index must satisfy `jj < SIZE[bb]`. -/
def binInRange (s : StateOf p) (b j : Nat) : Bool := bandInRange s b && decide (j < (band s b).size.toNat)

/-- R96: an envelope index must satisfy `ee < NE`. -/
def envInRange (p : Build) (e : Nat) : Bool := decide (e < p.NE)

end Sys2Proof.Machine
end

