-- ==== Sys2Proof/Machine/Ops.lean ====
section
/-!
DEFINITION. The shared operations on the state: recording an error (spec/60_exceptions.md R232), the admission
of a command (spec/30_encoding.md R90 steps 2 and 3), the writes of the result registers and of a band, and the
reset event (spec/70_reset_and_hazards.md R260).
CORE takes no trap (R236): recording an error is the whole of taking an exception, and there is no return.
-/

namespace Sys2Proof.Machine

variable {p : Build}

/-- R232: `raise Err(cause)`; the first cause since reset stays. -/
def raiseErr (c : Cause) (s : StateOf p) : StateOf p :=
  if s.cause = .none then { s with cause := c } else s

/-- R90 steps 2 to 4, R95, R96: a decoded command that the modes `admits` admits and whose indices are in range
(`indexOk`) takes effect; any other records its error and does nothing else. -/
def command (admits : Mode → Bool) (indexOk : Bool) (effect : StateOf p → StateOf p) (s : StateOf p) :
    Host.Outcome (StateOf p) Fault Refusal :=
  if admits s.mode then
    if indexOk then .next (effect s) else .next (raiseErr .cmdIndex s)
  else .next (raiseErr .cmdMode s)

/-- R21: `R <- z`, for a reading that fits a word. -/
def writeR (z : Int) (s : StateOf p) : StateOf p := { s with r := word p z }

/-- R21: `T <- x`. -/
def writeT (x : Bool) (s : StateOf p) : StateOf p := { s with t := x }

/-- R15: the registers of band `b` become `bd`. -/
def writeBand (b : Nat) (bd : Band p) (s : StateOf p) : StateOf p := { s with bands := s.bands.set b bd }

/-- R15: the registers of envelope `e` become `v`. -/
def writeEnv (e : Nat) (v : Env p) (s : StateOf p) : StateOf p := { s with envs := s.envs.set e v }

/-- R260, R261: the reset event. Every register takes its reset value and `GainBus` restarts empty; what the host has still
to do, and what it was answered, are the host's (notes/assumptions/6.md). -/
def resetEvent (s : StateOf p) : StateOf p := { resetState p with pending := s.pending, answers := s.answers }

end Sys2Proof.Machine
end

