-- ==== Sys2Proof/Machine/Map.lean ====
section
/-!
DEFINITION. The register map (spec/20_memory.md R60 to R64): which register an address names, the class of each
register, what each register reads as, and what a write stores in the registers that hold what is written.
-/

namespace Sys2Proof.Machine

variable {p : Build}

/-- R62: the registers of the map, each under its own name and indices. -/
inductive Reg where
  | cmd | ccmd | status | regA | regB | regR | regT | sampleIn | ctrl | nbands | dcbA0 | dcbBias
  | envAtk (e : Nat) | envRel (e : Nat) | envVal (e : Nat)
  | agcLow | agcHigh | agcHold | agcHoldcnt | agcStep | agcSwgain
  | agcSwtab (k : Nat)
  | gbusLast
  | blockLen (b : Nat) | size (b : Nat) | magScaler (b : Nat) | sizeScaler (b : Nat) | wrIdx (b : Nat)
  | bankRdy (b : Nat)
  | fluxHist (b k : Nat)
  | outMag (b : Nat) | outOnset (b : Nat) | outReady (b : Nat) | outOverrun (b : Nat)
  | tkMag (b : Nat) | tkOnset (b : Nat) | tkReady (b : Nat)
  | coef (b j : Nat) | q0 (b j : Nat) | q1 (b j : Nat) | q2 (b j : Nat) | mag (b j : Nat)
  | prevMag (b j : Nat) | blkPos (b j : Nat)
deriving DecidableEq, Repr

/-- R63: the access classes. -/
inductive RegClass where
  /-- A write executes a command, on the one port named; a read returns 0. -/
  | command (port : Port) (reg : CmdReg)
  /-- Port P writes in any mode. -/
  | operand
  /-- Port P writes while the mode is `UNCONFIGURED`. -/
  | configuration
  /-- No port writes. -/
  | readOnly
deriving DecidableEq, Repr

/-- R62: the registers below the band pages. -/
def decodeLow (p : Build) (n : Nat) : Option Reg :=
  if 0x0020 ≤ n ∧ n < 0x0020 + 4 * p.MAXENV then
    if (n - 0x0020) / 4 < p.NE then
      match (n - 0x0020) % 4 with
      | 0 => some (.envAtk ((n - 0x0020) / 4))
      | 1 => some (.envRel ((n - 0x0020) / 4))
      | 2 => some (.envVal ((n - 0x0020) / 4))
      | _ => none
    else none
  else if 0x0048 ≤ n ∧ n ≤ 0x004F then some (.agcSwtab (n - 0x0048))
  else
    match n with
    | 0x0000 => some .cmd
    | 0x0001 => some .ccmd
    | 0x0002 => some .status
    | 0x0003 => some .regA
    | 0x0004 => some .regB
    | 0x0005 => some .regR
    | 0x0006 => some .regT
    | 0x0007 => some .sampleIn
    | 0x0008 => some .ctrl
    | 0x0009 => some .nbands
    | 0x0010 => some .dcbA0
    | 0x0011 => some .dcbBias
    | 0x0040 => some .agcLow
    | 0x0041 => some .agcHigh
    | 0x0042 => some .agcHold
    | 0x0043 => some .agcHoldcnt
    | 0x0044 => some .agcStep
    | 0x0045 => some .agcSwgain
    | 0x0050 => some .gbusLast
    | _ => none

/-- R62: the register at offset `off` of the page of band `b`. -/
def decodePage (p : Build) (b off : Nat) : Option Reg :=
  if 0x100 ≤ off then
    if off % 0x100 < p.MAXBINS then
      match off / 0x100 with
      | 1 => some (.coef b (off % 0x100))
      | 2 => some (.q0 b (off % 0x100))
      | 3 => some (.q1 b (off % 0x100))
      | 4 => some (.q2 b (off % 0x100))
      | 5 => some (.mag b (off % 0x100))
      | 6 => some (.prevMag b (off % 0x100))
      | 7 => some (.blkPos b (off % 0x100))
      | _ => none
    else none
  else if 0x008 ≤ off ∧ off < 0x008 + p.WIN then some (.fluxHist b (off - 0x008))
  else
    match off with
    | 0x000 => some (.blockLen b)
    | 0x001 => some (.size b)
    | 0x002 => some (.magScaler b)
    | 0x003 => some (.sizeScaler b)
    | 0x004 => some (.wrIdx b)
    | 0x005 => some (.bankRdy b)
    | 0x010 => some (.outMag b)
    | 0x011 => some (.outOnset b)
    | 0x012 => some (.outReady b)
    | 0x013 => some (.outOverrun b)
    | 0x014 => some (.tkMag b)
    | 0x015 => some (.tkOnset b)
    | 0x016 => some (.tkReady b)
    | _ => none

/-- R60, R62: the register an address names, `none` where it is unmapped. The page of band `b` starts at
`0x1000 * (b+1)`. -/
def decodeAddr (p : Build) (addr : Addr) : Option Reg :=
  if addr.toNat < 0x1000 then decodeLow p addr.toNat
  else if addr.toNat / 0x1000 - 1 < p.MAXBANDS then
    decodePage p (addr.toNat / 0x1000 - 1) (addr.toNat % 0x1000)
  else none

/-- R62: the address of a register. -/
def Reg.address : Reg → Nat
  | .cmd => 0x0000
  | .ccmd => 0x0001
  | .status => 0x0002
  | .regA => 0x0003
  | .regB => 0x0004
  | .regR => 0x0005
  | .regT => 0x0006
  | .sampleIn => 0x0007
  | .ctrl => 0x0008
  | .nbands => 0x0009
  | .dcbA0 => 0x0010
  | .dcbBias => 0x0011
  | .envAtk e => 0x0020 + 4 * e
  | .envRel e => 0x0021 + 4 * e
  | .envVal e => 0x0022 + 4 * e
  | .agcLow => 0x0040
  | .agcHigh => 0x0041
  | .agcHold => 0x0042
  | .agcHoldcnt => 0x0043
  | .agcStep => 0x0044
  | .agcSwgain => 0x0045
  | .agcSwtab k => 0x0048 + k
  | .gbusLast => 0x0050
  | .blockLen b => 0x1000 * (b + 1)
  | .size b => 0x1000 * (b + 1) + 0x001
  | .magScaler b => 0x1000 * (b + 1) + 0x002
  | .sizeScaler b => 0x1000 * (b + 1) + 0x003
  | .wrIdx b => 0x1000 * (b + 1) + 0x004
  | .bankRdy b => 0x1000 * (b + 1) + 0x005
  | .fluxHist b k => 0x1000 * (b + 1) + 0x008 + k
  | .outMag b => 0x1000 * (b + 1) + 0x010
  | .outOnset b => 0x1000 * (b + 1) + 0x011
  | .outReady b => 0x1000 * (b + 1) + 0x012
  | .outOverrun b => 0x1000 * (b + 1) + 0x013
  | .tkMag b => 0x1000 * (b + 1) + 0x014
  | .tkOnset b => 0x1000 * (b + 1) + 0x015
  | .tkReady b => 0x1000 * (b + 1) + 0x016
  | .coef b j => 0x1000 * (b + 1) + 0x100 + j
  | .q0 b j => 0x1000 * (b + 1) + 0x200 + j
  | .q1 b j => 0x1000 * (b + 1) + 0x300 + j
  | .q2 b j => 0x1000 * (b + 1) + 0x400 + j
  | .mag b j => 0x1000 * (b + 1) + 0x500 + j
  | .prevMag b j => 0x1000 * (b + 1) + 0x600 + j
  | .blkPos b j => 0x1000 * (b + 1) + 0x700 + j

/-- R62: the register exists, that is, its indices are within the capacities the map has. -/
def Reg.isMapped (p : Build) : Reg → Bool
  | .envAtk e => decide (e < p.NE)
  | .envRel e => decide (e < p.NE)
  | .envVal e => decide (e < p.NE)
  | .agcSwtab k => decide (k < 8)
  | .blockLen b => decide (b < p.MAXBANDS)
  | .size b => decide (b < p.MAXBANDS)
  | .magScaler b => decide (b < p.MAXBANDS)
  | .sizeScaler b => decide (b < p.MAXBANDS)
  | .wrIdx b => decide (b < p.MAXBANDS)
  | .bankRdy b => decide (b < p.MAXBANDS)
  | .fluxHist b k => decide (b < p.MAXBANDS) && decide (k < p.WIN)
  | .outMag b => decide (b < p.MAXBANDS)
  | .outOnset b => decide (b < p.MAXBANDS)
  | .outReady b => decide (b < p.MAXBANDS)
  | .outOverrun b => decide (b < p.MAXBANDS)
  | .tkMag b => decide (b < p.MAXBANDS)
  | .tkOnset b => decide (b < p.MAXBANDS)
  | .tkReady b => decide (b < p.MAXBANDS)
  | .coef b j => decide (b < p.MAXBANDS) && decide (j < p.MAXBINS)
  | .q0 b j => decide (b < p.MAXBANDS) && decide (j < p.MAXBINS)
  | .q1 b j => decide (b < p.MAXBANDS) && decide (j < p.MAXBINS)
  | .q2 b j => decide (b < p.MAXBANDS) && decide (j < p.MAXBINS)
  | .mag b j => decide (b < p.MAXBANDS) && decide (j < p.MAXBINS)
  | .prevMag b j => decide (b < p.MAXBANDS) && decide (j < p.MAXBINS)
  | .blkPos b j => decide (b < p.MAXBANDS) && decide (j < p.MAXBINS)
  | _ => true

/-- R62, R63: the class of a register. -/
def Reg.regClass : Reg → RegClass
  | .cmd => .command .p .cmd
  | .ccmd => .command .c .ccmd
  | .regA => .operand
  | .regB => .operand
  | .sampleIn => .operand
  | .ctrl => .configuration
  | .nbands => .configuration
  | .dcbA0 => .configuration
  | .envAtk _ => .configuration
  | .envRel _ => .configuration
  | .agcLow => .configuration
  | .agcHigh => .configuration
  | .agcHold => .configuration
  | .agcSwtab _ => .configuration
  | .blockLen _ => .configuration
  | .size _ => .configuration
  | .coef _ _ => .configuration
  | .status => .readOnly
  | .regR => .readOnly
  | .regT => .readOnly
  | .dcbBias => .readOnly
  | .envVal _ => .readOnly
  | .agcHoldcnt => .readOnly
  | .agcStep => .readOnly
  | .agcSwgain => .readOnly
  | .gbusLast => .readOnly
  | .magScaler _ => .readOnly
  | .sizeScaler _ => .readOnly
  | .wrIdx _ => .readOnly
  | .bankRdy _ => .readOnly
  | .fluxHist _ _ => .readOnly
  | .outMag _ => .readOnly
  | .outOnset _ => .readOnly
  | .outReady _ => .readOnly
  | .outOverrun _ => .readOnly
  | .tkMag _ => .readOnly
  | .tkOnset _ => .readOnly
  | .tkReady _ => .readOnly
  | .q0 _ _ => .readOnly
  | .q1 _ _ => .readOnly
  | .q2 _ _ => .readOnly
  | .mag _ _ => .readOnly
  | .prevMag _ _ => .readOnly
  | .blkPos _ _ => .readOnly

/-- R64: what a register reads as, zero-extended to a word. -/
def readReg (s : StateOf p) : Reg → WordOf p
  | .cmd => 0
  | .ccmd => 0
  | .status => statusWord s
  | .regA => s.a
  | .regB => s.b
  | .regR => s.r
  | .regT => bitWord p s.t
  | .sampleIn => s.sampleIn.setWidth p.W
  | .ctrl => bitWord p s.aggNorm
  | .nbands => s.nbands
  | .dcbA0 => s.dcbA0
  | .dcbBias => s.dcbBias
  | .envAtk e => (env s e).atk
  | .envRel e => (env s e).rel
  | .envVal e => (env s e).val
  | .agcLow => s.agcLow
  | .agcHigh => s.agcHigh
  | .agcHold => s.agcHold
  | .agcHoldcnt => s.agcHoldcnt
  | .agcStep => s.agcStep.setWidth p.W
  | .agcSwgain => s.agcSwgain
  | .agcSwtab k => s.agcSwtab.get k
  | .gbusLast => s.gbusLast.setWidth p.W
  | .blockLen b => (band s b).blockLen
  | .size b => (band s b).size
  | .magScaler b => (band s b).magScaler
  | .sizeScaler b => (band s b).sizeScaler
  | .wrIdx b => (band s b).wrIdx
  | .bankRdy b => bitWord p (band s b).bankRdy
  | .fluxHist b k => (band s b).fluxHist.get k
  | .outMag b => (band s b).outMag
  | .outOnset b => bitWord p (band s b).outOnset
  | .outReady b => bitWord p (band s b).outReady
  | .outOverrun b => (band s b).outOverrun
  | .tkMag b => (band s b).tkMag
  | .tkOnset b => bitWord p (band s b).tkOnset
  | .tkReady b => bitWord p (band s b).tkReady
  | .coef b j => (bin s b j).coef
  | .q0 b j => (bin s b j).q0
  | .q1 b j => (bin s b j).q1
  | .q2 b j => (bin s b j).q2
  | .mag b j => (bin s b j).mag
  | .prevMag b j => (bin s b j).prevMag
  | .blkPos b j => (bin s b j).blkPos

/-- R65: an operand or configuration register takes the written word; a narrower register keeps its low
bits (R20). A register of another class stores nothing. -/
def storeReg (r : Reg) (v : WordOf p) (s : StateOf p) : StateOf p :=
  match r with
  | .regA => { s with a := v }
  | .regB => { s with b := v }
  | .sampleIn => { s with sampleIn := v.setWidth p.ADC_BITS }
  | .ctrl => { s with aggNorm := v.getLsbD 0 }
  | .nbands => { s with nbands := v }
  | .dcbA0 => { s with dcbA0 := v }
  | .envAtk e => writeEnv e { env s e with atk := v } s
  | .envRel e => writeEnv e { env s e with rel := v } s
  | .agcLow => { s with agcLow := v }
  | .agcHigh => { s with agcHigh := v }
  | .agcHold => { s with agcHold := v }
  | .agcSwtab k => { s with agcSwtab := s.agcSwtab.set k v }
  | .blockLen b => writeBand b { band s b with blockLen := v } s
  | .size b => writeBand b { band s b with size := v } s
  | .coef b j => writeBand b { band s b with bins := (band s b).bins.set j { bin s b j with coef := v } } s
  | .cmd => s
  | .ccmd => s
  | .status => s
  | .regR => s
  | .regT => s
  | .dcbBias => s
  | .envVal _ => s
  | .agcHoldcnt => s
  | .agcStep => s
  | .agcSwgain => s
  | .gbusLast => s
  | .magScaler _ => s
  | .sizeScaler _ => s
  | .wrIdx _ => s
  | .bankRdy _ => s
  | .fluxHist _ _ => s
  | .outMag _ => s
  | .outOnset _ => s
  | .outReady _ => s
  | .outOverrun _ => s
  | .tkMag _ => s
  | .tkOnset _ => s
  | .tkReady _ => s
  | .q0 _ _ => s
  | .q1 _ _ => s
  | .q2 _ _ => s
  | .mag _ _ => s
  | .prevMag _ _ => s
  | .blkPos _ _ => s

end Sys2Proof.Machine
end

