-- ==== Sys2Proof/Machine/Bus.lean ====
section
/-!
DEFINITION. The host operations (spec/20_memory.md R61 to R65; spec/30_encoding.md R90, R94): a register read, a
register write, which executes a command when it goes to a command register on the right port, and the reset event.
-/

namespace Sys2Proof.Machine

/-- R90: what each decoded command does in the build `p`. The host operations take it as an argument: it is `exec` in the
machine behind the host's interface, and `execAt` in a machine of any build. -/
abbrev Commands (p : Build) := Instr → StateOf p → Host.Outcome (StateOf p) Fault Refusal

variable {p : Build}

/-- R64: the value `RegRead(addr)` returns; an unmapped address reads 0. -/
def regReadValue (addr : Addr) (s : StateOf p) : WordOf p :=
  match decodeAddr p addr with
  | some r => readReg s r
  | none => 0

/-- R64: the state `RegRead(addr)` leaves: an unmapped address records `BUS_ADDR`, and no read does anything else. -/
def regReadState (addr : Addr) (s : StateOf p) : StateOf p :=
  match decodeAddr p addr with
  | some _ => s
  | none => raiseErr .busAddr s

/-- R65, R90 step 1: the command a word on the bus stands for at the command register `reg`; bits above bit 31 must be zero. -/
def decodeBusWord (reg : CmdReg) (v : WordOf p) : Option Instr :=
  if v.toNat / 2 ^ 32 = 0 then decode reg (v.setWidth 32) else none

/-- R90, R94: a word is written to the command register `reg` on its port. -/
def issue (run : Commands p) (reg : CmdReg) (v : WordOf p) (s : StateOf p) :
    Host.Outcome (StateOf p) Fault Refusal :=
  match decodeBusWord reg v with
  | some i => run i s
  | none => .next (raiseErr .cmdIllegal s)

/-- R63, R65, R235: `RegWrite(addr, v)` on a port. -/
def regWrite (run : Commands p) (port : Port) (addr : Addr) (v : WordOf p)
    (s : StateOf p) : Host.Outcome (StateOf p) Fault Refusal :=
  match decodeAddr p addr with
  | none => .next (raiseErr .busAddr s)
  | some r =>
    match r.regClass with
    | .command q reg => if port = q then issue run reg v s else .next (raiseErr .busAccess s)
    | .operand => if port = .p then .next (storeReg r v s) else .next (raiseErr .busAccess s)
    | .configuration =>
      if port = .p ∧ s.mode = .unconfigured then .next (storeReg r v s) else .next (raiseErr .busAccess s)
    | .readOnly => .next (raiseErr .busAccess s)

/-- The host is handed what a read returned (MODEL FIELD `answers`, notes/assumptions/4.md). -/
def answer (port : Port) (addr : Addr) (data : WordOf p) (s : StateOf p) : StateOf p :=
  { s with answers := s.answers ++ [{ port := port, addr := addr, data := data }] }

/-- R12: one host operation, one transition. -/
def perform (run : Commands p) (op : BusOp p) (s : StateOf p) :
    Host.Outcome (StateOf p) Fault Refusal :=
  match op with
  | .read port addr => .next (answer port addr (regReadValue addr s) (regReadState addr s))
  | .write port addr v => regWrite run port addr v s
  | .reset => .next (resetEvent s)

/-- R12, R70: the next host operation is taken from the front of those to come and performed. While there is none CORE does
nothing (DESIGN CHOICE, notes/assumptions/3.md, safe). -/
def hostStep (run : Commands p) (s : StateOf p) : Host.Outcome (StateOf p) Fault Refusal :=
  match s.pending with
  | [] => .next s
  | op :: rest => perform run op { s with pending := rest }

/-- R90, R98: the port and the command register a command's word is written to. -/
def commandPort : CmdReg → Port
  | .cmd => .p
  | .ccmd => .c

/-- R62: the address of a command register. -/
def commandAddr : CmdReg → Addr
  | .cmd => 0x0000#16
  | .ccmd => 0x0001#16

/-- R93, R98: the host operation that writes a command word where its operation code belongs: `TAKE`'s to `CCMD` on
port C, any other to `CMD` on port P (notes/assumptions/8.md). -/
def commandWrite (cw : BitVec 32) : BusOp p :=
  let reg : CmdReg := if opField cw = 0x03 then .ccmd else .cmd
  .write (commandPort reg) (commandAddr reg) (cw.setWidth p.W)

end Sys2Proof.Machine
end

