-- ==== Sys2Proof/Machine/Alu.lean ====
section
/-!
DEFINITION. The eight commands of the fixed-point ALU (spec/40_fixedpoint_alu.md R110 to R118): each reads `s(A)`, and
`s(B)` where it has two operands, and writes `R` and nothing else. Admitted in `UNCONFIGURED` and `RUNNING` (R95).
-/

namespace Sys2Proof.Machine

variable {p : Build}

/-- R110: an ALU command whose result is `f` of the state's operands. -/
def aluCommand (f : StateOf p → Int) (s : StateOf p) : Host.Outcome (StateOf p) Fault Refusal :=
  command admitAlu true (fun s => writeR (f s) s) s

/-- R111: `FX.MUL`. -/
def execFxMul (s : StateOf p) : Host.Outcome (StateOf p) Fault Refusal := aluCommand (fun s => fxmul p (opA s) (opB s)) s

/-- R112: `FX.RCP`. -/
def execFxRcp (s : StateOf p) : Host.Outcome (StateOf p) Fault Refusal := aluCommand (fun s => fxrcp p (opA s)) s

/-- R113: `FX.ABS`. -/
def execFxAbs (s : StateOf p) : Host.Outcome (StateOf p) Fault Refusal := aluCommand (fun s => fxabs p (opA s)) s

/-- R114: `FX.SQRT`. -/
def execFxSqrt (s : StateOf p) : Host.Outcome (StateOf p) Fault Refusal := aluCommand (fun s => fxsqrt p (opA s)) s

/-- R115: `FX.ADD`. -/
def execFxAdd (s : StateOf p) : Host.Outcome (StateOf p) Fault Refusal := aluCommand (fun s => fxadd p (opA s) (opB s)) s

/-- R116: `FX.SUB`. -/
def execFxSub (s : StateOf p) : Host.Outcome (StateOf p) Fault Refusal := aluCommand (fun s => fxsub p (opA s) (opB s)) s

/-- R117: `FX.FROMINT`. -/
def execFxFromint (s : StateOf p) : Host.Outcome (StateOf p) Fault Refusal := aluCommand (fun s => fxfromint p (opA s)) s

/-- R118: `FX.TOINT`. -/
def execFxToint (s : StateOf p) : Host.Outcome (StateOf p) Fault Refusal := aluCommand (fun s => fxtoint p (opA s)) s

end Sys2Proof.Machine
end

