-- ==== Sys2Proof/Machine/Agc.lean ====
section
/-!
DEFINITION. The adaptive gain controller with hysteresis (spec/45_auto_gain.md R190 to R194). The hold-off is
reloaded on every evaluation (spec/90_conflicts.md C3).
-/

namespace Sys2Proof.Machine

variable {p : Build}

/-- R193: the control word of gain code `k`, `0x4000 | k`. -/
def gainWord (k : BitVec 3) : BusWord := 0x4000#16 ||| k.setWidth 16

/-- R191: the step an evaluation moves to, `none` when it changes nothing. Both comparisons are signed and strict. -/
def agcNewStep (s : StateOf p) : Option (BitVec 3) :=
  if (env s 0).val.toInt < s.agcLow.toInt ∧ s.agcStep ≠ 7 then some (s.agcStep + 1)
  else if s.agcHigh.toInt < (env s 0).val.toInt ∧ s.agcStep ≠ 0 then some (s.agcStep - 1)
  else none

/-- R191, R193, R194: the gain step becomes `k`, and its control word is sent. -/
def agcChange (k : BitVec 3) (s : StateOf p) : StateOf p :=
  { s with
    agcStep := k
    agcSwgain := s.agcSwtab.get k.toNat
    gbusLast := gainWord k
    gainBus := s.gainBus ++ [gainWord k] }

/-- R191: `agc_tick()`. -/
def agcTick (s : StateOf p) : StateOf p :=
  if 0 < s.agcHoldcnt.toNat then { s with agcHoldcnt := s.agcHoldcnt - 1 }
  else
    match agcNewStep s with
    | some k => agcChange k { s with agcHoldcnt := s.agcHold }
    | none => { s with agcHoldcnt := s.agcHold }

/-- R191: `AGC.TICK`. -/
def execAgcTick (s : StateOf p) : Host.Outcome (StateOf p) Fault Refusal := command admitRunning true agcTick s

end Sys2Proof.Machine
end

