-- ==== Sys2Proof/Machine/Dcb.lean ====
section
/-!
DEFINITION. The single-pole bias tracker (spec/41_dc_bias_tracker.md R140, R141).
-/

namespace Sys2Proof.Machine

variable {p : Build}

/-- R141: the bias after one update with input `x`. -/
def dcbNewBias (s : StateOf p) (x : Int) : Int :=
  fxadd p s.dcbBias.toInt (fxmul p s.dcbA0.toInt (fxsub p x s.dcbBias.toInt))

/-- R141: the value `dcb_update(x)` returns, the input less the updated bias. -/
def dcbResult (s : StateOf p) (x : Int) : Int := fxsub p x (dcbNewBias s x)

/-- R141: the register `dcb_update(x)` writes. -/
def dcbUpdate (x : Int) (s : StateOf p) : StateOf p := { s with dcbBias := word p (dcbNewBias s x) }

/-- R141: `DCB.UPD`. -/
def execDcbUpd (s : StateOf p) : Host.Outcome (StateOf p) Fault Refusal :=
  command admitRunning true (fun s => writeR (dcbResult s (opA s)) (dcbUpdate (opA s) s)) s

end Sys2Proof.Machine
end

