-- ==== Sys2Proof/Machine/Envelope.lean ====
section
/-!
DEFINITION. The envelope follower (spec/42_envelope_follower.md R150, R151).
-/

namespace Sys2Proof.Machine

variable {p : Build}

/-- R151: the value `env_update` computes for an envelope and input `x`: attack when `|x|` is above the
envelope, release otherwise. DESIGN CHOICE where the spec is at odds with itself and no ruling of spec/90_conflicts.md settles it:
the model follows this pseudocode, also where R152 (b) says of the attack that it "stops at `a - 1` LSB"; with an attack
coefficient above one half the pseudocode stops lower (notes/assumptions/15.md). -/
def envNewVal (ev : Env p) (x : Int) : Int :=
  if ev.val.toInt < fxabs p x then fxadd p (fxabs p x) (fxmul p ev.atk.toInt (fxsub p ev.val.toInt (fxabs p x)))
  else fxadd p (fxabs p x) (fxmul p ev.rel.toInt (fxsub p ev.val.toInt (fxabs p x)))

/-- R151: the register `env_update(e, x)` writes. -/
def envUpdate (e : Nat) (x : Int) (s : StateOf p) : StateOf p :=
  writeEnv e { env s e with val := word p (envNewVal (env s e) x) } s

/-- R151: `ENV.UPD e`. -/
def execEnvUpd (e : Nat) (s : StateOf p) : Host.Outcome (StateOf p) Fault Refusal :=
  command admitRunning (envInRange p e)
    (fun s => writeR (envNewVal (env s e) (opA s)) (envUpdate e (opA s) s)) s

end Sys2Proof.Machine
end

