-- ==== Sys2Proof/Machine/Goertzel.lean ====
section
/-!
DEFINITION. The Goertzel resonator bank with its aggregator (spec/43_goertzel.md R160 to R166). A bin's update
depends on the bin's own registers, the sample and the band's `BLOCKLEN` and `MAGSCALER` alone; a band's on the
band's own registers.
-/

namespace Sys2Proof.Machine

variable {p : Build}

/-- R161: `q0 = c*q1 - q2 + x`, left to right, each operation saturating on its own (R16). -/
def Bin.newQ0 (bn : Bin p) (x : Int) : Int :=
  fxadd p (fxsub p (fxmul p bn.coef.toInt bn.q1.toInt) bn.q2.toInt) x

/-- R161: the power at a block boundary, `q1*q1 + q2*q2 - (q1*q2)*c`, before the clamp. -/
def goertzelPower (p : Build) (q1 q2 c : Int) : Int :=
  fxsub p (fxadd p (fxmul p q1 q1) (fxmul p q2 q2)) (fxmul p (fxmul p q1 q2) c)

/-- R161: the magnitude of a block: the root of the power clamped at 0, times the scaler. -/
def goertzelMag (p : Build) (q1 q2 c scaler : Int) : Int :=
  fxmul p (fxsqrt p (if goertzelPower p q1 q2 c < 0 then 0 else goertzelPower p q1 q2 c)) scaler

/-- R161: what `gz_update` returns: whether this update completes the bin's block of `n` samples. The count is an integer (R13). -/
def Bin.completes (n : WordOf p) (bn : Bin p) : Bool := decide (bn.blkPos.toNat + 1 = n.toNat)

/-- R161: the bin's registers after `gz_update` with sample `x`, in a band with `BLOCKLEN = n` and
`MAGSCALER = scaler`. -/
def Bin.gzUpdate (n scaler : WordOf p) (x : Int) (bn : Bin p) : Bin p :=
  if bn.completes n then
    { bn with
      q0 := 0, q1 := 0, q2 := 0, blkPos := 0
      mag := word p (goertzelMag p (bn.newQ0 x) bn.q1.toInt bn.coef.toInt scaler.toInt) }
  else
    { bn with
      q0 := word p (bn.newQ0 x), q1 := word p (bn.newQ0 x), q2 := bn.q1
      blkPos := bn.blkPos + 1 }

/-- R163: the band's registers after `gz_update` on its bin `j`. -/
def Band.gzUpdate (j : Nat) (x : Int) (bd : Band p) : Band p :=
  { bd with bins := bd.bins.set j ((bd.bins.get j).gzUpdate bd.blockLen bd.magScaler x) }

/-- R165: the flag `bank_update` returns, bin 0's. -/
def Band.bankReady (bd : Band p) : Bool := (bd.bins.get 0).completes bd.blockLen

/-- R165: the band's registers after `bank_update` with sample `x`. -/
def Band.bankUpdate (x : Int) (bd : Band p) : Band p :=
  { bd with
    bins := bd.bins.updBelow bd.size.toNat fun _ bn => bn.gzUpdate bd.blockLen bd.magScaler x
    bankRdy := bd.bankReady }

/-- R166: the saturating sum of the bins' magnitudes, in ascending order. -/
def Band.magSum (bd : Band p) : Int :=
  (List.range bd.size.toNat).foldl (fun sum j => fxadd p sum (bd.bins.get j).mag.toInt) 0

/-- R166: `bank_agg`, normalised when `CTRL.AGG_NORM` is 1. -/
def Band.bankAgg (aggNorm : Bool) (bd : Band p) : Int :=
  if aggNorm then fxmul p bd.magSum bd.sizeScaler.toInt else bd.magSum

/-- R163: `GZ.UPD b, j`. -/
def execGzUpd (b j : Nat) (s : StateOf p) : Host.Outcome (StateOf p) Fault Refusal :=
  command admitRunning (binInRange s b j)
    (fun s => writeT ((bin s b j).completes (band s b).blockLen)
      (writeBand b ((band s b).gzUpdate j (opA s)) s)) s

/-- R165: `BANK.UPD b`. -/
def execBankUpd (b : Nat) (s : StateOf p) : Host.Outcome (StateOf p) Fault Refusal :=
  command admitRunning (bandInRange s b)
    (fun s => writeT (band s b).bankReady (writeBand b ((band s b).bankUpdate (opA s)) s)) s

/-- R166: `BANK.AGG b`. -/
def execBankAgg (b : Nat) (s : StateOf p) : Host.Outcome (StateOf p) Fault Refusal :=
  command admitRunning (bandInRange s b) (fun s => writeR ((band s b).bankAgg s.aggNorm) s) s

end Sys2Proof.Machine
end

