-- ==== Sys2Proof/Machine/Flux.lean ====
section
/-!
DEFINITION. The spectral-flux detector (spec/44_spectral_flux.md R180 to R184), with the operand order of
spec/90_conflicts.md C1: `d = current - previous`.
-/

namespace Sys2Proof.Machine

variable {p : Build}

/-- R181: one bin's contribution to the flux, `d + |d|` with `d = current - previous`. -/
def fluxTerm (p : Build) (mag prevMag : Int) : Int := fxadd p (fxsub p mag prevMag) (fxabs p (fxsub p mag prevMag))

/-- R181: the flux of a block, summed over the bins in ascending order. -/
def Band.flux (bd : Band p) : Int :=
  (List.range bd.size.toNat).foldl
    (fun flux j => fxadd p flux (fluxTerm p (bd.bins.get j).mag.toInt (bd.bins.get j).prevMag.toInt)) 0

/-- R181: the write index after a block. -/
def Band.nextWrIdx (bd : Band p) : Nat := (bd.wrIdx.toNat + 1) % p.WIN

/-- R181: `flux_block`: the index advances, then the flux is stored at it, and `PREVMAG` takes `MAG`. -/
def Band.fluxBlock (bd : Band p) : Band p :=
  { bd with
    wrIdx := BitVec.ofNat p.W bd.nextWrIdx
    bins := bd.bins.updBelow bd.size.toNat fun _ bn => { bn with prevMag := bn.mag }
    fluxHist := bd.fluxHist.set bd.nextWrIdx (word p bd.flux) }

/-- R182: the band's registers after `flux_update` with sample `x`; it returns `bankReady`. -/
def Band.fluxUpdate (x : Int) (bd : Band p) : Band p :=
  if bd.bankReady then (bd.bankUpdate x).fluxBlock else bd.bankUpdate x

/-- R183: the slot `onset` tests. -/
def Band.lag (bd : Band p) : Nat := (bd.wrIdx.toNat + p.WIN / 2 + 1) % p.WIN

/-- R183: `onset`: the flux at `lag` is greater than or equal to every flux of the window. -/
def Band.onset (bd : Band p) : Bool :=
  (List.range p.WIN).all fun k =>
    decide ((bd.fluxHist.get k).toInt ≤ (bd.fluxHist.get bd.lag).toInt)

/-- R182: `FLUX.UPD b`. -/
def execFluxUpd (b : Nat) (s : StateOf p) : Host.Outcome (StateOf p) Fault Refusal :=
  command admitRunning (bandInRange s b)
    (fun s => writeT (band s b).bankReady (writeBand b ((band s b).fluxUpdate (opA s)) s)) s

/-- R184: `FLUX.ONSET b`. -/
def execFluxOnset (b : Nat) (s : StateOf p) : Host.Outcome (StateOf p) Fault Refusal :=
  command admitRunning (bandInRange s b) (fun s => writeT (band s b).onset s) s

end Sys2Proof.Machine
end

