-- ==== Sys2Proof/Machine/Pipeline.lean ====
section
/-!
DEFINITION. Construction, the per-sample sequence and the handoff (spec/46_pipeline.md R200 to R208).
-/

namespace Sys2Proof.Machine

variable {p : Build}

/-- R201 (2): the checks of one band, the first that fails. -/
def Band.initFailure (bd : Band p) : Option Cause :=
  if bd.blockLen.toNat = 0 ∨ p.NMAX < bd.blockLen.toNat then some .cfgBlocklen
  else if bd.size.toNat = 0 ∨ p.MAXBINS < bd.size.toNat then some .cfgSize
  else none

/-- R201: the checks of `INIT` in their order; `none` when all pass. -/
def initFailure (s : StateOf p) : Option Cause :=
  if s.nbands.toNat = 0 ∨ p.MAXBANDS < s.nbands.toNat then some .cfgNbands
  else (List.range s.nbands.toNat).findSome? fun b => (band s b).initFailure

/-- R202: `fxrcp(fxfromint(n))`, the scaler of a count. -/
def scalerOf (p : Build) (n : WordOf p) : WordOf p := word p (fxrcp p (fxfromint p (Int.ofNat n.toNat)))

/-- R202: a band after a successful `INIT`: the two scalers, the configuration as it was, all else zero. -/
def Band.construct (bd : Band p) : Band p :=
  { blockLen := bd.blockLen
    size := bd.size
    magScaler := scalerOf p bd.blockLen
    sizeScaler := scalerOf p bd.size
    bins := bd.bins.updBelow p.MAXBINS fun _ bn =>
      { bn with q0 := 0, q1 := 0, q2 := 0, blkPos := 0, mag := 0, prevMag := 0 }
    bankRdy := false
    fluxHist := bd.fluxHist.updBelow p.WIN fun _ _ => 0
    wrIdx := 0
    outMag := 0
    outOnset := false
    outReady := false
    outOverrun := 0
    tkMag := 0
    tkOnset := false
    tkReady := false }

/-- R202: the actions of a successful `INIT`. -/
def construct (s : StateOf p) : StateOf p :=
  { s with
    bands := s.bands.updBelow s.nbands.toNat fun _ bd => bd.construct
    dcbBias := 0
    envs := s.envs.updBelow p.NE fun _ ev => { ev with val := 0 }
    agcHoldcnt := 0
    agcStep := 0
    agcSwgain := s.agcSwtab.get 0
    mode := .running }

/-- R200: `INIT` once admitted. -/
def initPipeline (s : StateOf p) : StateOf p :=
  match initFailure s with
  | none => construct s
  | some c => raiseErr c { s with mode := .failed }

/-- R200: `INIT`. -/
def execInit (s : StateOf p) : Host.Outcome (StateOf p) Fault Refusal := command admitInit true initPipeline s

/-- R207: the overrun counter after a publication: it counts one that found `OUT_READY` still set. -/
def Band.overrun (bd : Band p) : WordOf p :=
  if bd.outReady then BitVec.ofNat p.W (min (bd.outOverrun.toNat + 1) (2 ^ p.W - 1)) else bd.outOverrun

/-- R207: `publish`. -/
def Band.publish (aggNorm : Bool) (bd : Band p) : Band p :=
  { bd with
    outMag := word p (bd.bankAgg aggNorm)
    outOnset := bd.onset
    outOverrun := bd.overrun
    outReady := true }

/-- R203 step 3: every band's detector takes the conditioned sample. -/
def updateBands (cond : Int) (s : StateOf p) : StateOf p :=
  { s with bands := s.bands.updBelow s.nbands.toNat fun _ bd => bd.fluxUpdate cond }

/-- R203 step 5: every band that `ready` says completed a block is published. -/
def publishBands (ready : Nat → Bool) (s : StateOf p) : StateOf p :=
  { s with
    bands := s.bands.updBelow s.nbands.toNat fun b bd => if ready b then bd.publish s.aggNorm else bd }

/-- R203: the conditioned sample of a tick, what step 1 returns. -/
def conditioned (s : StateOf p) : Int := dcbResult s (adcToFx p s.sampleIn)

/-- R203: one sample period, `onSample`, its five steps in their order. -/
def onSample (s : StateOf p) : StateOf p :=
  let s₁ := dcbUpdate (adcToFx p s.sampleIn) s
  let s₂ := envUpdate 0 (conditioned s) s₁
  let ready := fun b => (band s₂ b).bankReady
  let s₃ := updateBands (conditioned s) s₂
  let s₄ := agcTick s₃
  publishBands ready s₄

/-- R203: `SAMPLE`. -/
def execSample (s : StateOf p) : Host.Outcome (StateOf p) Fault Refusal := command admitRunning true onSample s

/-- R208: the band's registers after `TAKE`. -/
def Band.take (bd : Band p) : Band p :=
  { bd with tkReady := bd.outReady, tkMag := bd.outMag, tkOnset := bd.outOnset, outReady := false }

/-- R208: `TAKE b`. -/
def execTake (b : Nat) (s : StateOf p) : Host.Outcome (StateOf p) Fault Refusal :=
  command admitRunning (bandInRange s b) (fun s => writeBand b (band s b).take s) s

end Sys2Proof.Machine
end

