-- ==== Sys2Proof/Machine/Dispatch.lean ====
section
/-!
DEFINITION. One arm per command of spec/opcode_table.json, each one call of its meaning (spec/30_encoding.md R93).
-/

namespace Sys2Proof.Machine

/-- R90 steps 2 to 4: what a decoded command does. -/
def exec (i : Instr) (s : State) : Host.Outcome State Fault Refusal :=
  match i with
  | .init => Sys2Proof.Machine.execInit s
  | .sample => Sys2Proof.Machine.execSample s
  | .take b => Sys2Proof.Machine.execTake b s
  | .fxMul => Sys2Proof.Machine.execFxMul s
  | .fxRcp => Sys2Proof.Machine.execFxRcp s
  | .fxAbs => Sys2Proof.Machine.execFxAbs s
  | .fxSqrt => Sys2Proof.Machine.execFxSqrt s
  | .fxAdd => Sys2Proof.Machine.execFxAdd s
  | .fxSub => Sys2Proof.Machine.execFxSub s
  | .fxFromint => Sys2Proof.Machine.execFxFromint s
  | .fxToint => Sys2Proof.Machine.execFxToint s
  | .dcbUpd => Sys2Proof.Machine.execDcbUpd s
  | .envUpd e => Sys2Proof.Machine.execEnvUpd e s
  | .gzUpd b j => Sys2Proof.Machine.execGzUpd b j s
  | .bankUpd b => Sys2Proof.Machine.execBankUpd b s
  | .bankAgg b => Sys2Proof.Machine.execBankAgg b s
  | .fluxUpd b => Sys2Proof.Machine.execFluxUpd b s
  | .fluxOnset b => Sys2Proof.Machine.execFluxOnset b s
  | .agcTick => Sys2Proof.Machine.execAgcTick s

end Sys2Proof.Machine
end

