-- ==== Sys2Proof/Machine/Step.lean ====
section
/-!
DEFINITION. One step of the machine (spec/00_scope.md R12; spec/20_memory.md R70): the next host operation, whole. CORE
fetches no instructions (spec/10_state.md R22); a command takes effect when its word is written and is not stored
(spec/20_memory.md R74), so what stands for the fetch is the host's next operation.
-/

namespace Sys2Proof.Machine

/-- R12, R70: one step, the next host operation. -/
def step (s : State) : Host.Outcome State Fault Refusal := hostStep exec s

/-- The state whose next host operation writes the command word `w` of `nbits` bits (bit 0 the least significant bit) to
its command register. DESIGN CHOICE (notes/assumptions/2.md, notes/assumptions/8.md): this stands for the host's write. -/
def State.withFetchWord (s : State) (nbits w : Nat) : State :=
  { s with pending := commandWrite (BitVec.ofNat 32 (w % 2 ^ nbits)) :: s.pending }

end Sys2Proof.Machine
end

