-- ==== Sys2Proof/Machine/Builds.lean ====
section
/-!
DEFINITION. CORE in any build (spec/00_scope.md R7 to R9: a build parameter is an argument of the model). The meanings, the
register map and the host operations take the build as an argument; here are the commands, the step and the machine of a
build. At `Config.build` they are `exec`, `step` and `Sys2Proof.core`, whose names and types the host fixes.
-/

namespace Sys2Proof.Machine

/-- R90, R93: what a decoded command does in any build. -/
def execAt {p : Build} : Commands p
  | .init => execInit
  | .sample => execSample
  | .take b => execTake b
  | .fxMul => execFxMul
  | .fxRcp => execFxRcp
  | .fxAbs => execFxAbs
  | .fxSqrt => execFxSqrt
  | .fxAdd => execFxAdd
  | .fxSub => execFxSub
  | .fxFromint => execFxFromint
  | .fxToint => execFxToint
  | .dcbUpd => execDcbUpd
  | .envUpd e => execEnvUpd e
  | .gzUpd b j => execGzUpd b j
  | .bankUpd b => execBankUpd b
  | .bankAgg b => execBankAgg b
  | .fluxUpd b => execFluxUpd b
  | .fluxOnset b => execFluxOnset b
  | .agcTick => execAgcTick

/-- R12, R70: one step in any build. -/
def stepAt {p : Build} (s : StateOf p) : Host.Outcome (StateOf p) Fault Refusal := hostStep execAt s

/-- R7 to R9: CORE in the build `p`. -/
def coreAt (p : Build) : Host.Core :=
  { State := StateOf p, Fault := Fault, Refusal := Refusal, step := stepAt, reset := resetState p }

end Sys2Proof.Machine
end

