-- ==== Sys2Proof/Machine/HostProgram.lean ====
section
/-!
DEFINITION. Host programs (spec/30_encoding.md R98, R99): each line of the spec's assembler syntax and the host
operations it stands for. The order of the lines is the host's (R97): CORE has no control transfer.
-/

namespace Sys2Proof.Machine

/-- R98, R99: one line of a host program. -/
inductive HostLine (p : Build) where
  /-- A mnemonic with its index fields: the command's word written to its command register. -/
  | command (i : Instr)
  /-- `WR name, value`, on port P. -/
  | wr (reg : Reg) (v : WordOf p)
  /-- `RD name`, on port P, or on port C after `C:`. -/
  | rd (port : Port) (reg : Reg)
  /-- `SETA v`. -/
  | setA (v : WordOf p)
  /-- `SETB v`. -/
  | setB (v : WordOf p)
  /-- `TICK v`: one sample period with the raw reading `v`. -/
  | tick (v : WordOf p)
deriving DecidableEq, Repr

/-- R62: a register's address as the bus carries it. -/
def Reg.addr (reg : Reg) : Addr := BitVec.ofNat 16 reg.address

/-- R98: the write of a command's word to its command register, on that register's port. -/
def commandOp (p : Build) (i : Instr) : BusOp p :=
  .write (commandPort i.cmdReg) (commandAddr i.cmdReg) ((encode i).setWidth p.W)

/-- R98, R99: the host operations of a line. -/
def HostLine.operations {p : Build} : HostLine p → List (BusOp p)
  | .command i => [commandOp p i]
  | .wr reg v => [.write .p reg.addr v]
  | .rd port reg => [.read port reg.addr]
  | .setA v => [.write .p Reg.regA.addr v]
  | .setB v => [.write .p Reg.regB.addr v]
  | .tick v => [.write .p Reg.sampleIn.addr v, commandOp p .sample]

/-- R98: the host operations of a program. -/
def hostProgram {p : Build} (lines : List (HostLine p)) : List (BusOp p) := lines.flatMap HostLine.operations

end Sys2Proof.Machine
end

