-- ==== Sys2Proof/Machine/Loader.lean ====
section
/-!
DEFINITION. The loader (spec/46_pipeline.md R210 to R216; spec/70_reset_and_hazards.md R263): the producer's context before
`INIT`, outside the block. It checks the physical configuration, lays out the banks, and writes the configuration
registers. Its real-number formulas are stated as propositions about the words it writes (R216: the block's behaviour
is defined by the words actually written, never by the formulas), so that a claim can take one as a premise.
Notes: notes/assumptions/9.md.
-/

namespace Sys2Proof.Machine

variable {p : Build}

/-- R10, R211: the physical configuration of one band. -/
structure PhysBand where
  blockLen : Nat
  startFreq : Rat
  endFreq : Rat
deriving DecidableEq, Repr

/-- R10, R215: the physical configuration of the pipeline, with the register values the loader only passes on. -/
structure PhysConfig (p : Build) where
  /-- in hertz -/
  sampleRate : Rat
  bands : List PhysBand
  /-- the DC-bias cutoff frequency, in hertz -/
  cutoff : Rat
  attackMs : Rat
  releaseMs : Rat
  /-- `AGC_LOW`, when its reset value is not wanted (R215, R263 (3)) -/
  low : Option (WordOf p)
  /-- `AGC_HIGH`, when its reset value is not wanted (R215, R263 (3)) -/
  high : Option (WordOf p)
  hold : WordOf p
  /-- the eight words of `AGC_SWTAB`, when the reset table is not wanted (R194, R263 (3)) -/
  gainTable : Option (Vector (WordOf p) 8)
  aggNorm : Bool
deriving DecidableEq, Repr

/-- R216: the coefficient words the loader computed, the bands' in order, each band's bins in order. For a bin the lists do not
reach the model's loader writes 0 (DESIGN CHOICE, notes/assumptions/9.md). -/
structure LoaderWords (p : Build) where
  coef : List (List (WordOf p))
  dcbA0 : WordOf p
  envAtk : WordOf p
  envRel : WordOf p
deriving DecidableEq, Repr

/-- R211: the spacing of a bank's bins. -/
def binWidth (c : PhysConfig p) (pb : PhysBand) : Rat := c.sampleRate / (pb.blockLen : Rat)

/-- R211: the number of bins of a bank. -/
def bankSize (c : PhysConfig p) (pb : PhysBand) : Nat :=
  1 + ((pb.endFreq - pb.startFreq) / binWidth c pb).floor.toNat

/-- R211: the target frequency of bin `k`. -/
def binFreq (c : PhysConfig p) (pb : PhysBand) (k : Nat) : Rat := pb.startFreq + (k : Rat) * binWidth c pb

/-- R210: the checks the source names, of one band. -/
def bandFailure (pb : PhysBand) : Option Cause :=
  if pb.blockLen = 0 then some .cfgBlocklen
  else if pb.endFreq ≤ pb.startFreq then some .cfgFreqRange
  else none

/-- R210, R231: the loader's checks in their order; `Cause.none` when all pass. -/
def loaderCheck (c : PhysConfig p) : Cause :=
  if c.sampleRate ≤ 0 then .cfgSampleRate
  else
    match c.bands.findSome? bandFailure with
    | some e => e
    | none =>
      if c.bands.any fun pb => decide (p.MAXBINS < bankSize c pb) then .cfgSize
      else if c.bands.any fun pb => decide (p.NMAX < pb.blockLen) then .cfgBlocklen
      else if c.bands.length = 0 ∨ p.MAXBANDS < c.bands.length then .cfgNbands
      else .none

/-- R263 (3): the lines that configure band `b`. -/
def bandLines (c : PhysConfig p) (w : LoaderWords p) (b : Nat) (pb : PhysBand) : List (HostLine p) :=
  [.wr (.blockLen b) (BitVec.ofNat p.W pb.blockLen), .wr (.size b) (BitVec.ofNat p.W (bankSize c pb))] ++
    (List.range (bankSize c pb)).map fun j => .wr (.coef b j) ((w.coef.getD b []).getD j 0)

/-- R263 (3): the line that writes a register whose reset value is not wanted, or none. -/
def optionalLine (reg : Reg) (v : Option (WordOf p)) : List (HostLine p) := v.toList.map (.wr reg)

/-- R263 (3): the lines that configure what the bands share; the thresholds are written only if their reset values are not
wanted. -/
def sharedLines (c : PhysConfig p) (w : LoaderWords p) : List (HostLine p) :=
  [.wr .dcbA0 w.dcbA0, .wr (.envAtk 0) w.envAtk, .wr (.envRel 0) w.envRel, .wr .agcHold c.hold] ++
    optionalLine .agcLow c.low ++ optionalLine .agcHigh c.high

/-- R194, R215, R263 (3): the lines that write the software-gain table, all eight words, or none if the reset table is wanted. -/
def gainTableLines (c : PhysConfig p) : List (HostLine p) :=
  match c.gainTable with
  | some table => (List.range 8).map fun k => .wr (.agcSwtab k) (table.toList.getD k 0)
  | none => []

/-- R216, R263 (3), (4): the host program of the loader: the configuration, `INIT` once, and a read of `STATUS`. When a check fails it
writes nothing and does not issue `INIT` (R210). -/
def loaderProgram (c : PhysConfig p) (w : LoaderWords p) : List (HostLine p) :=
  if loaderCheck c = .none then
    .wr .nbands (BitVec.ofNat p.W c.bands.length) ::
      (((List.range c.bands.length).flatMap fun b => bandLines c w b (c.bands.getD b ⟨0, 0, 0⟩)) ++
        sharedLines c w ++ gainTableLines c ++ [.wr .ctrl (bitWord p c.aggNorm), .command .init,
          .rd .p .status])
  else []

/-- R263 (4): what the loader reads in `STATUS` after `INIT` means success: `MODE == RUNNING` (bits 1:0) and `CAUSE == 0`
(bits 15:8, R24). -/
def startUpSucceeded (status : WordOf p) : Bool :=
  decide (status.toNat % 4 = Mode.running.code ∧ status.toNat / 2 ^ 8 % 2 ^ 8 = Cause.none.code)

/-- R17: `w` is the word `fx_of_real(v)`. -/
def IsFxOfReal (p : Build) (v : ℝ) (w : WordOf p) : Prop := w.toInt = sat p ⌊v * (2 : ℝ) ^ p.F⌋

/-- R212: `w` is the coefficient of bin `k`, with `w = 2*pi*f/SR` (spec/90_conflicts.md C4). -/
def IsGoertzelCoef (c : PhysConfig p) (pb : PhysBand) (k : Nat) (w : WordOf p) : Prop :=
  IsFxOfReal p (2 * Real.cos (2 * Real.pi * ((binFreq c pb k : Rat) : ℝ) / ((c.sampleRate : Rat) : ℝ))) w

/-- R213: `w` is the bias coefficient. -/
def IsBiasCoef (c : PhysConfig p) (w : WordOf p) : Prop :=
  IsFxOfReal p (1 - Real.exp (-(2 * Real.pi * ((c.cutoff : Rat) : ℝ) / ((c.sampleRate : Rat) : ℝ)))) w

/-- R214: `w` is the envelope coefficient of the time constant `ms`; for `ms <= 0` the loader writes 0. -/
def IsEnvCoef (c : PhysConfig p) (ms : Rat) (w : WordOf p) : Prop :=
  if ms ≤ 0 then w = 0
  else IsFxOfReal p ((0.01 : ℝ) ^ (1 / (((ms : Rat) : ℝ) * ((c.sampleRate : Rat) : ℝ) * 0.001))) w

/-- R212 to R214: the loader's words are the formulas' words. -/
def LoaderWords.Exact (c : PhysConfig p) (w : LoaderWords p) : Prop :=
  (∀ b < c.bands.length, ∀ j < bankSize c (c.bands.getD b ⟨0, 0, 0⟩),
      IsGoertzelCoef c (c.bands.getD b ⟨0, 0, 0⟩) j ((w.coef.getD b []).getD j 0)) ∧
    IsBiasCoef c w.dcbA0 ∧ IsEnvCoef c c.attackMs w.envAtk ∧ IsEnvCoef c c.releaseMs w.envRel

end Sys2Proof.Machine
end

