-- ==== Sys2Proof/Safety.lean ====
section
/-!
DEFINITION. What counts as a safe state and a safe run of CORE, in the terms the claims use: the frame of an
operation, the invariants the spec states of the registers, and the repetition of a command.
-/

namespace Sys2Proof.Machine

variable {p : Build}

/-- R232: the cause after an error `new` is raised: the first since reset stays. -/
def firstCause (old new : Cause) : Cause := if old = .none then new else old

/-- Nothing the registers, the gain bus or the host's side hold differs between `s` and `t`, but for the registers `dest`. -/
def FrameExcept (dest : Reg → Prop) (s t : StateOf p) : Prop :=
  (∀ reg, ¬ dest reg → readReg t reg = readReg s reg) ∧
    t.gainBus = s.gainBus ∧ t.pending = s.pending ∧ t.answers = s.answers

/-- R14: the nearest integer the signed reading of a word of the default build can be. -/
def clampWord (z : Int) : Int := max (-2147483648) (min 2147483647 z)

/-- R95: the eight `FX` commands. -/
def isFx (i : Instr) : Prop :=
  i ∈ [Instr.fxMul, .fxRcp, .fxAbs, .fxSqrt, .fxAdd, .fxSub, .fxFromint, .fxToint]

/-- R95: the mode admits the command. -/
def Admitted (i : Instr) : Mode → Prop
  | .unconfigured => i = .init ∨ isFx i
  | .running => i ≠ .init
  | .failed => False

/-- R96: the command's indices are in range. -/
def IndicesInRange (i : Instr) (s : StateOf p) : Prop :=
  match i with
  | .take b | .bankUpd b | .bankAgg b | .fluxUpd b | .fluxOnset b => b < s.nbands.toNat
  | .gzUpd b j => b < s.nbands.toNat ∧ j < (band s b).size.toNat
  | .envUpd e => e < p.NE
  | _ => True

/-- R90 (2), R95: in a mode that does not admit it the command records `CMD_MODE` and does nothing else. -/
def RefusedByMode (i : Instr) : Prop :=
  ∀ s : State, ¬ Admitted i s.mode → exec i s = .next { s with cause := firstCause s.cause .cmdMode }

/-- R90 (3), R96: admitted with an index out of range the command records `CMD_INDEX` and does nothing else. -/
def RefusedByIndex (i : Instr) : Prop :=
  ∀ s : State, Admitted i s.mode → ¬ IndicesInRange i s →
    exec i s = .next { s with cause := firstCause s.cause .cmdIndex }

/-- R201: band `b`'s block length and bank size pass the checks of `INIT`. -/
def BandConfigOk (s : StateOf p) (b : Nat) : Prop :=
  1 ≤ (band s b).blockLen.toNat ∧ (band s b).blockLen.toNat ≤ p.NMAX ∧
    1 ≤ (band s b).size.toNat ∧ (band s b).size.toNat ≤ p.MAXBINS

/-- R201: the configuration passes the checks of `INIT`. -/
def ConfigValid (s : StateOf p) : Prop :=
  1 ≤ s.nbands.toNat ∧ s.nbands.toNat ≤ p.MAXBANDS ∧ ∀ b < s.nbands.toNat, BandConfigOk s b

/-- R32: the bins of a band stand at one block position. -/
def BankSync (bd : Band p) : Prop :=
  ∀ j < bd.size.toNat, (bd.bins.get j).blkPos = (bd.bins.get 0).blkPos

/-- R20, R24, R201, R202: while the block runs its configuration is valid and its scalers are those of the configuration. -/
def ConfigInv (s : StateOf p) : Prop :=
  s.mode = .running →
    ConfigValid s ∧
      ∀ b < s.nbands.toNat,
        (band s b).magScaler = scalerOf p (band s b).blockLen ∧ (band s b).sizeScaler = scalerOf p (band s b).size

/-- R35, R36, R193: the gain step, the software gain, the last control word and the words sent belong together. -/
def GainInv (s : StateOf p) : Prop :=
  (s.mode = .running → s.agcSwgain = s.agcSwtab.get s.agcStep.toNat) ∧
    (s.mode ≠ .running → s.gainBus = []) ∧
    (∀ w ∈ s.gainBus, 0x4000 ≤ w.toNat ∧ w.toNat ≤ 0x4007) ∧
    s.gbusLast = s.gainBus.getLastD 0 ∧
    s.agcStep = s.gbusLast.setWidth 3

/-- R31: a bin's registers but `COEF` hold their reset values. -/
def Bin.Idle (bn : Bin p) : Prop := bn = { Bin.zero with coef := bn.coef }

/-- R39, R40: a band's registers but its configuration hold their reset values. -/
def Band.Idle (bd : Band p) : Prop :=
  bd = { Band.zero with blockLen := bd.blockLen, size := bd.size, bins := bd.bins } ∧
    ∀ j, (bd.bins.get j).Idle

/-- R200, R230, R231: a failed block has a cause, the loader's own causes are never recorded, and until `INIT` succeeds
the dynamic state holds its reset values. -/
def LifecycleInv (s : StateOf p) : Prop :=
  s.cause ≠ .cfgSampleRate ∧ s.cause ≠ .cfgFreqRange ∧ (s.mode = .failed → s.cause ≠ .none) ∧
    (s.mode ≠ .running →
      s.t = false ∧ s.dcbBias = 0 ∧ s.agcHoldcnt = 0 ∧ s.agcStep = 0 ∧ s.agcSwgain = (resetState p).agcSwgain ∧
        s.gbusLast = 0 ∧ s.gainBus = [] ∧
        (∀ e, (env s e).val = 0) ∧ ∀ b, (band s b).Idle)

/-- R39: the registers beyond the configured counts and beyond the capacities hold their reset values. -/
def UnusedInv (s : StateOf p) : Prop :=
  (∀ b, p.MAXBANDS ≤ b → band s b = Band.zero) ∧
    (∀ b j, p.MAXBINS ≤ j → bin s b j = Bin.zero) ∧
    (∀ b k, p.WIN ≤ k → (band s b).fluxHist.get k = 0) ∧
    (∀ e, p.NE ≤ e → env s e = Env.zero) ∧
    (∀ k, 8 ≤ k → s.agcSwtab.get k = 0) ∧
    (s.mode = .running →
      (∀ b, s.nbands.toNat ≤ b → (band s b).Idle) ∧
        ∀ b j, (band s b).size.toNat ≤ j → (bin s b j).Idle)

/-- R31, R33: what the spec states of a band's registers between operations. -/
def BandInv (s : StateOf p) : Prop :=
  (∀ b j, (bin s b j).q0 = (bin s b j).q1 ∧ 0 ≤ (bin s b j).mag.toInt ∧ 0 ≤ (bin s b j).prevMag.toInt) ∧
    (∀ b, (band s b).wrIdx.toNat < p.WIN) ∧
    (∀ b k, 0 ≤ ((band s b).fluxHist.get k).toInt) ∧
    (s.mode = .running →
      ∀ b < s.nbands.toNat, ∀ j < (band s b).size.toNat,
        (bin s b j).blkPos.toNat < (band s b).blockLen.toNat)

/-- The state a command leaves, for claims about repeated commands; a command that does not complete leaves the state as it is. -/
def after (i : Instr) (s : State) : State :=
  match exec i s with
  | .next t => t
  | .fault _ => s
  | .refused _ => s

/-- R191: `n` controller ticks. -/
def agcTicks : Nat → State → State
  | 0, s => s
  | n + 1, s => agcTicks n (after .agcTick s)

/-- R165: `BANK.UPD b` once for each sample of a list, each sample put in `A` first. -/
def bankFeed (b : Nat) (xs : List Word) (s : State) : State :=
  xs.foldl (fun s x => after (.bankUpd b) { s with a := x }) s

/-- R99, R206: one tick for each raw reading of a list. -/
def sampleFeed (raws : List (BitVec Config.build.ADC_BITS)) (s : State) : State :=
  raws.foldl (fun s raw => after .sample { s with sampleIn := raw }) s

end Sys2Proof.Machine
end

