-- ==== Sys2Proof/Certificates/Slice0/Obligations.lean ====
section
/-!
DEFINITION. The statements for the provers. Each is a proposition about the model; its docstring names the rule of spec/ it
formalises, or the notes a choice of the model rests on.
-/

open Sys2Proof Sys2Proof.Machine Sys2Proof.Config

/-! ### Encoding (spec/30_encoding.md) -/

/-- Every well-formed command is read back from its own word at its own command register (R91 to R93). -/
def Obligations.DecodeInvertsEncode : Prop :=
  ∀ i : Instr, i.wellFormed = true → decode i.cmdReg (encode i) = some i

/-- A word that decodes at a register is the word of a well-formed command of that register, so no bit is dropped (R91 to R94). -/
def Obligations.EncodeInvertsDecode : Prop :=
  ∀ (reg : CmdReg) (cw : BitVec 32) (i : Instr),
    decode reg cw = some i → i.wellFormed = true ∧ i.cmdReg = reg ∧ encode i = cw

/-- Words written out from the patterns of R93 decode to their commands, one of every family. -/
def Obligations.SpecWordsDecode : Prop :=
  decode .cmd 0x01000000#32 = some .init ∧
    decode .cmd 0x02000000#32 = some .sample ∧
    decode .ccmd 0x03070000#32 = some (.take 7) ∧
    decode .cmd 0x10000000#32 = some .fxMul ∧
    decode .cmd 0x17000000#32 = some .fxToint ∧
    decode .cmd 0x20000000#32 = some .dcbUpd ∧
    decode .cmd 0x30020000#32 = some (.envUpd 2) ∧
    decode .cmd 0x40010300#32 = some (.gzUpd 1 3) ∧
    decode .cmd 0x51FF0000#32 = some (.bankAgg 255) ∧
    decode .cmd 0x61040000#32 = some (.fluxOnset 4) ∧
    decode .cmd 0x70000000#32 = some .agcTick ∧
    decode .cmd 0x03000000#32 = none ∧
    decode .ccmd 0x02000000#32 = none ∧
    decode .cmd 0x40010301#32 = none ∧
    decode .cmd 0x10010000#32 = none ∧
    decode .cmd 0x30000100#32 = none

/-- R94: a word that is no command of the register it is written to records `CMD_ILLEGAL` and changes nothing else;
237 of the 256 operation codes are in no row, and the all-zeros and all-ones words are illegal. -/
def Obligations.IllegalWordOnlyRecords : Prop :=
  (∀ (s : State) (reg : CmdReg) (cw : BitVec 32) (rest : List (BusOp build)),
      (¬ ∃ i : Instr, i.wellFormed = true ∧ i.cmdReg = reg ∧ encode i = cw) →
      s.pending = .write (commandPort reg) (commandAddr reg) cw :: rest →
      step s = .next { s with pending := rest, cause := firstCause s.cause .cmdIllegal }) ∧
    ((List.range 256).filter fun op => decodeCmd op 0 0 = none ∧ decodeCcmd op 0 0 = none).length = 237 ∧
    ∀ reg : CmdReg, decode reg 0#32 = none ∧ decode reg 0xFFFFFFFF#32 = none

/-! ### Steps and the register map (spec/00_scope.md R12, spec/20_memory.md) -/

/-- R90, R74: when the host's next operation writes a word to its command register and the word decodes to a command, the step
takes that operation and is what the command does. -/
def Obligations.StepRunsDecodedCommand : Prop :=
  ∀ (s : State) (reg : CmdReg) (cw : BitVec 32) (i : Instr) (rest : List (BusOp build)),
    decode reg cw = some i →
    s.pending = .write (commandPort reg) (commandAddr reg) cw :: rest →
    step s = exec i { s with pending := rest }

/-- The model's choice (notes/assumptions/11.md, and 3.md for the step with nothing to come), made from R262's words on the reachable
states: in every state every operation of the host and every command has a next state: nothing stops the machine. -/
def Obligations.EveryOperationCompletes : Prop :=
  (∀ s : State, ∃ t, step s = .next t) ∧ ∀ (i : Instr) (s : State), ∃ t, exec i s = .next t

/-- R64: a read on either port hands the host the register's value (0 for an unmapped address), and changes nothing but that an
unmapped address records `BUS_ADDR`; a one-bit register reads 0 or 1, `AGC_STEP` 0 to 7, `GBUS_LAST` 0 to 0xFFFF. Each register
but `STATUS` reads as its own field of the state, zero-extended (`STATUS` has a statement of its own). -/
def Obligations.ReadAnswersAndChangesNothing : Prop :=
  (∀ (s : State) (port : Port) (addr : Addr) (rest : List (BusOp build)),
      s.pending = .read port addr :: rest →
      (∀ reg, decodeAddr build addr = some reg →
        step s = .next { s with
          pending := rest
          answers := s.answers ++ [{ port := port, addr := addr, data := readReg s reg }] }) ∧
      (decodeAddr build addr = none →
        step s = .next { s with
          pending := rest
          cause := firstCause s.cause .busAddr
          answers := s.answers ++ [{ port := port, addr := addr, data := 0 }] })) ∧
    ∀ (s : State) (b : Nat),
      (∀ reg ∈ [Reg.regT, .ctrl, .bankRdy b, .outOnset b, .outReady b, .tkOnset b, .tkReady b],
        (readReg s reg).toNat ≤ 1) ∧
      (readReg s .agcStep).toNat ≤ 7 ∧ (readReg s .gbusLast).toNat ≤ 0xFFFF ∧
      (readReg s .cmd = 0 ∧ readReg s .ccmd = 0) ∧
      (readReg s .regA = s.a ∧ readReg s .regB = s.b ∧ readReg s .regR = s.r ∧
        (readReg s .regT).toNat = (if s.t then 1 else 0)) ∧
      ((readReg s .sampleIn).toNat = s.sampleIn.toNat ∧ (readReg s .ctrl).toNat = (if s.aggNorm then 1 else 0) ∧
        readReg s .nbands = s.nbands ∧ readReg s .dcbA0 = s.dcbA0 ∧ readReg s .dcbBias = s.dcbBias) ∧
      (∀ e, readReg s (.envAtk e) = (env s e).atk ∧ readReg s (.envRel e) = (env s e).rel ∧
        readReg s (.envVal e) = (env s e).val) ∧
      (readReg s .agcLow = s.agcLow ∧ readReg s .agcHigh = s.agcHigh ∧ readReg s .agcHold = s.agcHold ∧
        readReg s .agcHoldcnt = s.agcHoldcnt ∧ (readReg s .agcStep).toNat = s.agcStep.toNat ∧
        readReg s .agcSwgain = s.agcSwgain ∧ (∀ k, readReg s (.agcSwtab k) = s.agcSwtab.get k) ∧
        (readReg s .gbusLast).toNat = s.gbusLast.toNat) ∧
      (readReg s (.blockLen b) = (band s b).blockLen ∧ readReg s (.size b) = (band s b).size ∧
        readReg s (.magScaler b) = (band s b).magScaler ∧ readReg s (.sizeScaler b) = (band s b).sizeScaler ∧
        readReg s (.wrIdx b) = (band s b).wrIdx ∧ (readReg s (.bankRdy b)).toNat = (if (band s b).bankRdy then 1 else 0) ∧
        ∀ k, readReg s (.fluxHist b k) = (band s b).fluxHist.get k) ∧
      (readReg s (.outMag b) = (band s b).outMag ∧
        (readReg s (.outOnset b)).toNat = (if (band s b).outOnset then 1 else 0) ∧
        (readReg s (.outReady b)).toNat = (if (band s b).outReady then 1 else 0) ∧
        readReg s (.outOverrun b) = (band s b).outOverrun ∧ readReg s (.tkMag b) = (band s b).tkMag ∧
        (readReg s (.tkOnset b)).toNat = (if (band s b).tkOnset then 1 else 0) ∧
        (readReg s (.tkReady b)).toNat = (if (band s b).tkReady then 1 else 0)) ∧
      ∀ j, readReg s (.coef b j) = (bin s b j).coef ∧ readReg s (.q0 b j) = (bin s b j).q0 ∧
        readReg s (.q1 b j) = (bin s b j).q1 ∧ readReg s (.q2 b j) = (bin s b j).q2 ∧
        readReg s (.mag b j) = (bin s b j).mag ∧ readReg s (.prevMag b j) = (bin s b j).prevMag ∧
        readReg s (.blkPos b j) = (bin s b j).blkPos

/-- R62: the rows of the register map, each at the address and of the class the table gives it; every other address is unmapped. -/
def Obligations.AddressMapRows : Prop :=
  ([0x0000#16, 0x0001#16, 0x0002#16, 0x0003#16, 0x0004#16, 0x0005#16, 0x0006#16, 0x0007#16, 0x0008#16, 0x0009#16,
      0x0010#16, 0x0011#16, 0x0020#16, 0x0021#16, 0x0022#16, 0x0040#16, 0x0041#16, 0x0042#16, 0x0043#16,
      0x0044#16, 0x0045#16, 0x0050#16].map (decodeAddr build) =
    [some .cmd, some .ccmd, some .status, some .regA, some .regB, some .regR, some .regT, some .sampleIn,
      some .ctrl, some .nbands, some .dcbA0, some .dcbBias, some (.envAtk 0), some (.envRel 0),
      some (.envVal 0), some .agcLow, some .agcHigh, some .agcHold, some .agcHoldcnt, some .agcStep,
      some .agcSwgain, some .gbusLast]) ∧
    (∀ k < 8, decodeAddr build (BitVec.ofNat 16 (0x0048 + k)) = some (.agcSwtab k)) ∧
    (∀ b < 8,
      [0x000, 0x001, 0x002, 0x003, 0x004, 0x005, 0x010, 0x011, 0x012, 0x013, 0x014, 0x015, 0x016].map
          (fun off => decodeAddr build (BitVec.ofNat 16 (0x1000 * (b + 1) + off))) =
        [some (.blockLen b), some (.size b), some (.magScaler b), some (.sizeScaler b), some (.wrIdx b),
          some (.bankRdy b), some (.outMag b), some (.outOnset b), some (.outReady b), some (.outOverrun b),
          some (.tkMag b), some (.tkOnset b), some (.tkReady b)]) ∧
    (∀ b < 8, ∀ k < 5,
      decodeAddr build (BitVec.ofNat 16 (0x1000 * (b + 1) + 0x008 + k)) = some (.fluxHist b k)) ∧
    (∀ b < 8, ∀ j < 256,
      [0x100, 0x200, 0x300, 0x400, 0x500, 0x600, 0x700].map
          (fun off => decodeAddr build (BitVec.ofNat 16 (0x1000 * (b + 1) + off + j))) =
        [some (.coef b j), some (.q0 b j), some (.q1 b j), some (.q2 b j), some (.mag b j),
          some (.prevMag b j), some (.blkPos b j)]) ∧
    (∀ (addr : Addr) (reg : Reg), decodeAddr build addr = some reg → reg.isMapped build = true ∧ reg.address = addr.toNat) ∧
    Reg.cmd.regClass = .command .p .cmd ∧ Reg.ccmd.regClass = .command .c .ccmd ∧
    ∀ reg : Reg,
      (reg.regClass = .operand ↔ reg ∈ [Reg.regA, .regB, .sampleIn]) ∧
      (reg.regClass = .configuration ↔
        reg ∈ [Reg.ctrl, .nbands, .dcbA0, .agcLow, .agcHigh, .agcHold] ∨
          (∃ e, reg = .envAtk e ∨ reg = .envRel e) ∨ (∃ k, reg = .agcSwtab k) ∨
          ∃ b, reg = .blockLen b ∨ reg = .size b ∨ ∃ j, reg = .coef b j) ∧
      (reg ≠ .cmd → reg ≠ .ccmd → reg.regClass ≠ .operand → reg.regClass ≠ .configuration → reg.regClass = .readOnly)

/-- R62: decoding an address inverts a register's address: the map names every register once and nothing else. -/
def Obligations.AddressMapRoundTrip : Prop :=
  (∀ reg : Reg, reg.isMapped build = true → decodeAddr build (BitVec.ofNat 16 reg.address) = some reg) ∧
    ∀ (addr : Addr) (reg : Reg), decodeAddr build addr = some reg → reg.isMapped build = true ∧ reg.address = addr.toNat

/-- R65: a register write executes a command on the command register of the right port; stores the word in an operand register on
port P, and in a configuration register on port P in `UNCONFIGURED` (`SAMPLE_IN` and `CTRL` keep their low bits), leaving every
other register; and in every other case changes nothing but the cause. -/
def Obligations.WriteRule : Prop :=
  ∀ (s : State) (port : Port) (addr : Addr) (v : Word) (rest : List (BusOp build)),
    s.pending = .write port addr v :: rest →
    (decodeAddr build addr = none →
      step s = .next { s with pending := rest, cause := firstCause s.cause .busAddr }) ∧
    (∀ reg, decodeAddr build addr = some reg →
      (reg = .cmd ∧ port = .p → step s = issue exec .cmd v { s with pending := rest }) ∧
      (reg = .ccmd ∧ port = .c → step s = issue exec .ccmd v { s with pending := rest }) ∧
      (port = .p ∧ (reg.regClass = .operand ∨ reg.regClass = .configuration ∧ s.mode = .unconfigured) →
        ∃ t, step s = .next t ∧ FrameExcept (· = reg) { s with pending := rest } t ∧
          (readReg t reg).toNat =
            if reg = .sampleIn then v.toNat % 2 ^ 16 else if reg = .ctrl then v.toNat % 2 else v.toNat) ∧
      (¬ (reg = .cmd ∧ port = .p) ∧ ¬ (reg = .ccmd ∧ port = .c) ∧
          ¬ (port = .p ∧ (reg.regClass = .operand ∨ reg.regClass = .configuration ∧ s.mode = .unconfigured)) →
        step s = .next { s with pending := rest, cause := firstCause s.cause .busAccess }))

/-! ### Modes, admission and errors (spec/30_encoding.md R95, R96; spec/60_exceptions.md) -/

/-- R95: a command that the mode does not admit only records `CMD_MODE`, and no other command records it. -/
def Obligations.ModeCheck : Prop :=
  ∀ (i : Instr) (s : State),
    (¬ Admitted i s.mode → exec i s = .next { s with cause := firstCause s.cause .cmdMode }) ∧
      (Admitted i s.mode → s.cause = .none → ∃ t, exec i s = .next t ∧ t.cause ≠ .cmdMode)

/-- R96: in a mode that admits it, a command whose band, bin or envelope index is out of range only records `CMD_INDEX`; no
other command records it, and the check comes after the mode check. -/
def Obligations.IndexCheck : Prop :=
  ∀ (i : Instr) (s : State), Admitted i s.mode →
    (¬ IndicesInRange i s → exec i s = .next { s with cause := firstCause s.cause .cmdIndex }) ∧
      (IndicesInRange i s → s.cause = .none → ∃ t, exec i s = .next t ∧ t.cause ≠ .cmdIndex)

/-- R232: the first cause since reset stays until reset, and an operation that records a cause changes nothing else of CORE, but
that a failing `INIT` has set the mode to `FAILED`. -/
def Obligations.ErrorsStickyAndPrecise : Prop :=
  ∀ (s t : State) (op : BusOp build) (rest : List (BusOp build)),
    s.pending = op :: rest → step s = .next t →
    (op = .reset → t.cause = .none) ∧
      (op ≠ .reset →
        (s.cause ≠ .none → t.cause = s.cause) ∧
          (t.cause ≠ s.cause →
            t = { s with pending := rest, cause := t.cause, mode := t.mode, answers := t.answers } ∧
              (t.mode = s.mode ∨ s.mode = .unconfigured ∧ t.mode = .failed)))

/-- R230: reset leads to `UNCONFIGURED`; only `INIT` in `UNCONFIGURED` leads out of it; `RUNNING` and `FAILED` are left only by
reset. -/
def Obligations.ModeTransitions : Prop :=
  ∀ (s t : State) (op : BusOp build) (rest : List (BusOp build)),
    s.pending = op :: rest → step s = .next t →
    (op = .reset → t.mode = .unconfigured) ∧
      (op ≠ .reset →
        t.mode = s.mode ∨
          s.mode = .unconfigured ∧ (t.mode = .running ∨ t.mode = .failed) ∧ op = .write .p 0x0000#16 0x01000000#32)

/-- R61, R237: an operation of the consumer (port C) changes no register but the cause, `OUT_READY` and the `TK_` registers, and
sends nothing on the gain bus. -/
def Obligations.ConsumerIsolation : Prop :=
  ∀ (s t : State) (op : BusOp build) (rest : List (BusOp build)),
    s.pending = op :: rest → step s = .next t →
    ((∃ addr, op = .read .c addr) ∨ ∃ addr v, op = .write .c addr v) →
    t.mode = s.mode ∧ t.gainBus = s.gainBus ∧
      ∀ reg : Reg, reg ≠ .status →
        (∀ b, reg ≠ .outReady b ∧ reg ≠ .tkMag b ∧ reg ≠ .tkOnset b ∧ reg ≠ .tkReady b) →
        readReg t reg = readReg s reg

/-- R271: outside `UNCONFIGURED` no operation but reset changes a configuration register, and a write to one only records
`BUS_ACCESS`. -/
def Obligations.ConfigurationLocked : Prop :=
  ∀ (s t : State) (op : BusOp build) (rest : List (BusOp build)),
    s.pending = op :: rest → step s = .next t → s.mode ≠ .unconfigured → op ≠ .reset →
    (∀ reg : Reg, reg.regClass = .configuration → readReg t reg = readReg s reg) ∧
      ∀ (port : Port) (addr : Addr) (v : Word) (reg : Reg),
        op = .write port addr v → decodeAddr build addr = some reg → reg.regClass = .configuration →
        t = { s with pending := rest, cause := firstCause s.cause .busAccess }

/-! ### Reset (spec/70_reset_and_hazards.md R260, spec/10_state.md R40) -/

/-- R260: the reset event, from any state, leaves every register at the value of the reset table, the mode `UNCONFIGURED`, no
cause, and an empty gain-bus sequence. -/
def Obligations.ResetRegisters : Prop :=
  ∀ (s : State) (rest : List (BusOp build)), s.pending = .reset :: rest →
    ∃ t, step s = .next t ∧ t.mode = .unconfigured ∧ t.cause = .none ∧ t.gainBus = [] ∧
      readReg t .agcLow = 0x00000400#32 ∧ readReg t .agcHigh = 0x00002000#32 ∧
      readReg t .agcSwgain = 0x04000000#32 ∧
      (List.range 8).map (fun k => readReg t (.agcSwtab k)) =
        [0x04000000#32, 0x01000000#32, 0x00400000#32, 0x00200000#32, 0x00100000#32, 0x00080000#32,
          0x00040000#32, 0x00010000#32] ∧
      ∀ reg : Reg, reg ≠ .agcLow → reg ≠ .agcHigh → reg ≠ .agcSwgain → (∀ k < 8, reg ≠ .agcSwtab k) →
        readReg t reg = 0

/-- The state after reset meets every invariant below, and the reset value of `AGC_SWGAIN` they speak of is 0x04000000 (R40). -/
def Obligations.ResetHasInvariants : Prop :=
  ConfigInv State.reset ∧ GainInv State.reset ∧ LifecycleInv State.reset ∧ UnusedInv State.reset ∧
    BandInv State.reset ∧ State.reset.agcSwgain = 0x04000000#32

/-! ### Invariants that every step keeps -/

/-- R24, R201, R202: in `RUNNING` the configuration is valid and the scalers are the configuration's. -/
def Obligations.ConfigInvKept : Prop :=
  ∀ s t : State, ConfigInv s → step s = .next t → ConfigInv t

/-- R35, R36, R193: `AGC_SWGAIN` is the table's entry for the step, `GBUS_LAST` the last word sent, every word sent one of 0x4000
to 0x4007, and the step the last word's code. -/
def Obligations.GainInvKept : Prop :=
  ∀ s t : State, GainInv s → step s = .next t → GainInv t

/-- R200, R230, R231: until `INIT` succeeds the dynamic state keeps its reset values; a failed block has a cause; the loader's own
causes are never recorded. -/
def Obligations.LifecycleInvKept : Prop :=
  ∀ s t : State, LifecycleInv s → step s = .next t → LifecycleInv t

/-- R39: registers beyond the configured counts and the capacities keep their reset values. -/
def Obligations.UnusedInvKept : Prop :=
  ∀ s t : State, ConfigInv s → LifecycleInv s → UnusedInv s → step s = .next t → UnusedInv t

/-- R31, R33: between operations `0 <= BLKPOS < BLOCKLEN`, `Q0 = Q1`, `MAG`, `PREVMAG` and `FLUXHIST` are not negative, and
`WRIDX < WIN`. -/
def Obligations.BandInvKept : Prop :=
  ∀ s t : State, ConfigInv s → BandInv s → step s = .next t → BandInv t

/-- R32: `BANK.UPD`, `FLUX.UPD` and `SAMPLE` keep a band's bins in step, and a successful `INIT` puts them in step. -/
def Obligations.BankSyncKept : Prop :=
  (∀ (s t : State) (i : Instr) (b : Nat),
      s.mode = .running → b < s.nbands.toNat → 1 ≤ (band s b).size.toNat → BankSync (band s b) →
      ((∃ b', i = .bankUpd b') ∨ (∃ b', i = .fluxUpd b') ∨ i = .sample) →
      exec i s = .next t → BankSync (band t b)) ∧
    ∀ s : State, s.mode = .unconfigured → ConfigValid s →
      ∃ t, exec .init s = .next t ∧ t.mode = .running ∧ ∀ b < s.nbands.toNat, BankSync (band t b)

/-! ### `INIT` (spec/46_pipeline.md R200 to R202) -/

/-- R202: a successful `INIT` writes the scalers, zeroes the dynamic state of the bands in use, the bias, the envelopes and the
controller, sets `AGC_SWGAIN` from the table and the mode to `RUNNING`, and leaves everything else. -/
def Obligations.InitSucceeds : Prop :=
  ∀ s : State, s.mode = .unconfigured → ConfigValid s →
    ∃ t, exec .init s = .next t ∧ t.mode = .running ∧ t.cause = s.cause ∧
      (∀ b < s.nbands.toNat,
        (readReg t (.magScaler b)).toInt = 65536 / ((readReg s (.blockLen b)).toNat : Int) ∧
        (readReg t (.sizeScaler b)).toInt = 65536 / ((readReg s (.size b)).toNat : Int) ∧
        (∀ j < 256, ∀ reg ∈ [Reg.q0 b j, .q1 b j, .q2 b j, .blkPos b j, .mag b j, .prevMag b j], readReg t reg = 0) ∧
        (∀ k < 5, readReg t (.fluxHist b k) = 0) ∧
        ∀ reg ∈ [Reg.wrIdx b, .bankRdy b, .outMag b, .outOnset b, .outReady b, .outOverrun b, .tkMag b, .tkOnset b,
            .tkReady b], readReg t reg = 0) ∧
      readReg t .dcbBias = 0 ∧ (∀ e < build.NE, readReg t (.envVal e) = 0) ∧ readReg t .agcHoldcnt = 0 ∧
      readReg t .agcStep = 0 ∧ readReg t .agcSwgain = readReg s (.agcSwtab 0) ∧
      FrameExcept
        (fun reg =>
          reg = .status ∨ reg = .dcbBias ∨ (∃ e < build.NE, reg = .envVal e) ∨ reg = .agcHoldcnt ∨ reg = .agcStep ∨
            reg = .agcSwgain ∨
            ∃ b < s.nbands.toNat,
              reg = .magScaler b ∨ reg = .sizeScaler b ∨ reg = .outMag b ∨ reg = .outOnset b ∨ reg = .outReady b ∨
                reg = .outOverrun b ∨ reg = .tkMag b ∨ reg = .tkOnset b ∨ reg = .tkReady b ∨ reg = .wrIdx b ∨
                reg = .bankRdy b ∨ (∃ k < 5, reg = .fluxHist b k) ∨
                ∃ j < 256, reg = .q0 b j ∨ reg = .q1 b j ∨ reg = .q2 b j ∨ reg = .blkPos b j ∨ reg = .mag b j ∨
                  reg = .prevMag b j)
        s t

/-- R200, R201: the first check that fails decides the cause, in the order number of bands, then for each band block length
before size; the block fails, and nothing else changes. When every check passes `INIT` succeeds. -/
def Obligations.InitFailsAtFirstCheck : Prop :=
  ∀ s : State, s.mode = .unconfigured →
    (s.nbands.toNat = 0 ∨ 8 < s.nbands.toNat →
      exec .init s = .next { s with mode := .failed, cause := firstCause s.cause .cfgNbands }) ∧
    (∀ b < s.nbands.toNat, s.nbands.toNat ≤ 8 → (∀ b' < b, BandConfigOk s b') →
      ((band s b).blockLen.toNat = 0 ∨ 32767 < (band s b).blockLen.toNat →
        exec .init s = .next { s with mode := .failed, cause := firstCause s.cause .cfgBlocklen }) ∧
      (1 ≤ (band s b).blockLen.toNat → (band s b).blockLen.toNat ≤ 32767 →
        (band s b).size.toNat = 0 ∨ 256 < (band s b).size.toNat →
        exec .init s = .next { s with mode := .failed, cause := firstCause s.cause .cfgSize })) ∧
    (1 ≤ s.nbands.toNat → s.nbands.toNat ≤ 8 → (∀ b < s.nbands.toNat, BandConfigOk s b) →
      ∃ t, exec .init s = .next t ∧ t.mode = .running ∧ t.cause = s.cause)

/-! ### The fixed-point ALU (spec/40_fixedpoint_alu.md) -/

/-- R111: `FX.MUL` is 0x10000000; `R` takes the floor of the product over `2^16`, saturated, and nothing else changes. -/
def Obligations.FxMulResult : Prop :=
  decode .cmd 0x10000000#32 = some .fxMul ∧
    ∀ s : State, s.mode ≠ .failed →
      ∃ w : Word, exec .fxMul s = .next { s with r := w } ∧ w.toInt = clampWord (s.a.toInt * s.b.toInt / 65536)

/-- R112: `FX.RCP` is 0x11000000; `R` takes the floor of `2^32` over `A`, saturated, and `FX_MAX` for zero, and nothing else changes. -/
def Obligations.FxRcpResult : Prop :=
  decode .cmd 0x11000000#32 = some .fxRcp ∧
    ∀ s : State, s.mode ≠ .failed →
      ∃ w : Word, exec .fxRcp s = .next { s with r := w } ∧
        (s.a.toInt = 0 → w.toInt = 2147483647) ∧
        ∀ q : Int,
          (0 < s.a.toInt ∧ q * s.a.toInt ≤ 4294967296 ∧ 4294967296 < (q + 1) * s.a.toInt ∨
            s.a.toInt < 0 ∧ 4294967296 ≤ q * s.a.toInt ∧ (q + 1) * s.a.toInt < 4294967296) →
          w.toInt = clampWord q

/-- R113: `FX.ABS` is 0x12000000; `R` takes the absolute value, `FX_MAX` for `FX_MIN`, and nothing else changes. -/
def Obligations.FxAbsResult : Prop :=
  decode .cmd 0x12000000#32 = some .fxAbs ∧
    ∀ s : State, s.mode ≠ .failed →
      ∃ w : Word, exec .fxAbs s = .next { s with r := w } ∧ w.toInt = min 2147483647 |s.a.toInt|

/-- R114: `FX.SQRT` is 0x13000000; `R` takes the largest integer whose square is at most `A * 2^16`, 0 for `A <= 0`, and nothing
else changes. -/
def Obligations.FxSqrtResult : Prop :=
  decode .cmd 0x13000000#32 = some .fxSqrt ∧
    ∀ s : State, s.mode ≠ .failed →
      ∃ w : Word, exec .fxSqrt s = .next { s with r := w } ∧ 0 ≤ w.toInt ∧
        (s.a.toInt ≤ 0 → w.toInt = 0) ∧
        (0 < s.a.toInt →
          w.toInt * w.toInt ≤ s.a.toInt * 65536 ∧ s.a.toInt * 65536 < (w.toInt + 1) * (w.toInt + 1))

/-- R115: `FX.ADD` is 0x14000000; `R` takes the saturated sum, and nothing else changes. -/
def Obligations.FxAddResult : Prop :=
  decode .cmd 0x14000000#32 = some .fxAdd ∧
    ∀ s : State, s.mode ≠ .failed →
      ∃ w : Word, exec .fxAdd s = .next { s with r := w } ∧ w.toInt = clampWord (s.a.toInt + s.b.toInt)

/-- R116: `FX.SUB` is 0x15000000; `R` takes the saturated difference, and nothing else changes. -/
def Obligations.FxSubResult : Prop :=
  decode .cmd 0x15000000#32 = some .fxSub ∧
    ∀ s : State, s.mode ≠ .failed →
      ∃ w : Word, exec .fxSub s = .next { s with r := w } ∧ w.toInt = clampWord (s.a.toInt - s.b.toInt)

/-- R117: `FX.FROMINT` is 0x16000000; `R` takes `A * 2^16`, saturated, and nothing else changes. -/
def Obligations.FxFromintResult : Prop :=
  decode .cmd 0x16000000#32 = some .fxFromint ∧
    ∀ s : State, s.mode ≠ .failed →
      ∃ w : Word, exec .fxFromint s = .next { s with r := w } ∧ w.toInt = clampWord (s.a.toInt * 65536)

/-- R118: `FX.TOINT` is 0x17000000; `R` takes the floor of `A` over `2^16`, and nothing else changes. -/
def Obligations.FxTointResult : Prop :=
  decode .cmd 0x17000000#32 = some .fxToint ∧
    ∀ s : State, s.mode ≠ .failed →
      ∃ w : Word, exec .fxToint s = .next { s with r := w } ∧ w.toInt = s.a.toInt / 65536

/-- The laws (a) to (g) of section 3 of the ALU file, on readings of words. -/
def Obligations.FixedPointLaws : Prop :=
  ∀ a b c d : Word,
    0 ≤ fxabs build a.toInt ∧ 0 ≤ fxsqrt build a.toInt ∧
    (0 ≤ c.toInt → c.toInt ≤ 65536 → 0 ≤ d.toInt →
      0 ≤ fxmul build c.toInt d.toInt ∧ fxmul build c.toInt d.toInt ≤ d.toInt) ∧
    (0 ≤ c.toInt → c.toInt ≤ 65536 → d.toInt ≤ 0 →
      d.toInt ≤ fxmul build c.toInt d.toInt ∧ fxmul build c.toInt d.toInt ≤ 0) ∧
    (0 < d.toInt → fxadd build d.toInt (fxabs build d.toInt) = clampWord (2 * d.toInt)) ∧
    (d.toInt ≤ 0 → d.toInt ≠ -2147483648 → fxadd build d.toInt (fxabs build d.toInt) = 0) ∧
    (d.toInt = -2147483648 → fxadd build d.toInt (fxabs build d.toInt) = -1) ∧
    (0 < fxsub build a.toInt b.toInt ↔ b.toInt < a.toInt) ∧
    ((0 ≤ a.toInt ∧ 0 ≤ b.toInt ∨ a.toInt ≤ 0 ∧ b.toInt ≤ 0) → 0 ≤ fxmul build a.toInt b.toInt)

/-! ### The bias tracker (spec/41_dc_bias_tracker.md) -/

/-- R141: `DCB.UPD` is 0x20000000; the bias takes `bias + a0*(x - bias)`, `R` takes the input less the UPDATED bias, and nothing
else changes. Only `RUNNING` admits it. -/
def Obligations.DcbUpdResult : Prop :=
  decode .cmd 0x20000000#32 = some .dcbUpd ∧ RefusedByMode .dcbUpd ∧
    ∀ s : State, s.mode = .running →
      ∃ bias w : Word, exec .dcbUpd s = .next { s with dcbBias := bias, r := w } ∧
        bias.toInt =
          fxadd build s.dcbBias.toInt (fxmul build s.dcbA0.toInt (fxsub build s.a.toInt s.dcbBias.toInt)) ∧
        w.toInt = fxsub build s.a.toInt bias.toInt

/-- Sections R142 and R143 of the bias tracker, which the spec derives: with the coefficient between 0 and 1 and no saturation the
new bias lies between the old one and the input; an input above the bias by less than `2^16 / a0` does not move it; an input
below it moves it by at least one. -/
def Obligations.DcbTracking : Prop :=
  ∀ s : State, s.mode = .running → 0 ≤ s.dcbA0.toInt → s.dcbA0.toInt ≤ 65536 →
    -2147483648 ≤ s.a.toInt - s.dcbBias.toInt → s.a.toInt - s.dcbBias.toInt ≤ 2147483647 →
    ∃ t, exec .dcbUpd s = .next t ∧
      min s.dcbBias.toInt s.a.toInt ≤ t.dcbBias.toInt ∧ t.dcbBias.toInt ≤ max s.dcbBias.toInt s.a.toInt ∧
      (0 < s.a.toInt - s.dcbBias.toInt → s.dcbA0.toInt * (s.a.toInt - s.dcbBias.toInt) < 65536 →
        t.dcbBias = s.dcbBias) ∧
      (s.a.toInt < s.dcbBias.toInt → 0 < s.dcbA0.toInt → t.dcbBias.toInt ≤ s.dcbBias.toInt - 1)

/-! ### The envelope follower (spec/42_envelope_follower.md) -/

/-- R151: `ENV.UPD e` is 0x30ee0000; the envelope and `R` take the attack or release value, and nothing else changes; an index out
of range records `CMD_INDEX` only. Only `RUNNING` admits it. -/
def Obligations.EnvUpdResult : Prop :=
  (∀ e < 256, decode .cmd (BitVec.ofNat 32 (0x30000000 + e * 0x10000)) = some (.envUpd e)) ∧
    (∀ e, RefusedByMode (.envUpd e)) ∧
    ∀ (s : State) (e : Nat), s.mode = .running →
      (e < build.NE →
        ∃ t, exec (.envUpd e) s = .next t ∧
          (env t e).val.toInt =
            (if (env s e).val.toInt < fxabs build s.a.toInt then
              fxadd build (fxabs build s.a.toInt) (fxmul build (env s e).atk.toInt (fxsub build (env s e).val.toInt (fxabs build s.a.toInt)))
            else
              fxadd build (fxabs build s.a.toInt) (fxmul build (env s e).rel.toInt (fxsub build (env s e).val.toInt (fxabs build s.a.toInt)))) ∧
          t.r = (env t e).val ∧ FrameExcept (fun reg => reg = .envVal e ∨ reg = .regR) s t) ∧
      (build.NE ≤ e → exec (.envUpd e) s = .next { s with cause := firstCause s.cause .cmdIndex })

/-- Section R152 of the envelope follower, which the spec derives: with coefficients in [0, 1] and a non-negative envelope the new
value lies between the old one and the input's magnitude; an attack never reaches the input; a release falls strictly.
Where an attack stops, R152 (b) says at one below the input, which the pseudocode of R151 does only for a coefficient above 0 and
up to one half; the last two clauses say where it stops under R151, which the model follows (notes/assumptions/15.md). -/
def Obligations.EnvelopeBounds : Prop :=
  ∀ (ev : Env build) (x : Word), 0 ≤ ev.atk.toInt → ev.atk.toInt ≤ 65536 → 0 ≤ ev.rel.toInt → ev.rel.toInt ≤ 65536 →
    0 ≤ ev.val.toInt →
    min (fxabs build x.toInt) ev.val.toInt ≤ envNewVal ev x.toInt ∧
    envNewVal ev x.toInt ≤ max (fxabs build x.toInt) ev.val.toInt ∧ 0 ≤ envNewVal ev x.toInt ∧
    (ev.val.toInt < fxabs build x.toInt → 0 < ev.atk.toInt → envNewVal ev x.toInt ≤ fxabs build x.toInt - 1) ∧
    (fxabs build x.toInt < ev.val.toInt → ev.rel.toInt < 65536 → envNewVal ev x.toInt < ev.val.toInt) ∧
    (ev.val.toInt < fxabs build x.toInt →
      (envNewVal ev x.toInt = ev.val.toInt ↔ (fxabs build x.toInt - ev.val.toInt) * (65536 - ev.atk.toInt) < 65536)) ∧
    (ev.val.toInt < fxabs build x.toInt → 0 < ev.atk.toInt → ev.atk.toInt ≤ 32768 →
      (envNewVal ev x.toInt = ev.val.toInt ↔ ev.val.toInt = fxabs build x.toInt - 1))

/-! ### The Goertzel bank (spec/43_goertzel.md) -/

/-- R163, with the update function of R161: `GZ.UPD b, j` is 0x40bbjj00; off a block boundary the recursion advances and `T` is 0; on one the
magnitude is renewed, the recursion and the position are zeroed, and `T` is 1. Every other register is left. Other modes record `CMD_MODE`, indices out of range `CMD_INDEX`.
Nothing is said of the advance of a position that a word cannot hold one more than (notes/assumptions/10.md). -/
def Obligations.GzUpdResult : Prop :=
  (∀ b < 256, ∀ j < 256,
      decode .cmd (BitVec.ofNat 32 (0x40000000 + b * 0x10000 + j * 0x100)) = some (.gzUpd b j)) ∧
    (∀ b j, RefusedByMode (.gzUpd b j) ∧ RefusedByIndex (.gzUpd b j)) ∧
    ∀ (s : State) (b j : Nat), s.mode = .running → b < s.nbands.toNat → j < (band s b).size.toNat →
    ∃ t, exec (.gzUpd b j) s = .next t ∧
      FrameExcept
        (fun reg => reg = .q0 b j ∨ reg = .q1 b j ∨ reg = .q2 b j ∨ reg = .blkPos b j ∨ reg = .mag b j ∨ reg = .regT)
        s t ∧
      let c := (bin s b j).coef.toInt
      let q1 := (bin s b j).q1.toInt
      let q0 := fxadd build (fxsub build (fxmul build c q1) (bin s b j).q2.toInt) s.a.toInt
      let p := fxsub build (fxadd build (fxmul build q0 q0) (fxmul build q1 q1)) (fxmul build (fxmul build q0 q1) c)
      if (bin s b j).blkPos.toNat + 1 = (band s b).blockLen.toNat then
        t.t = true ∧ (bin t b j).q0 = 0 ∧ (bin t b j).q1 = 0 ∧ (bin t b j).q2 = 0 ∧ (bin t b j).blkPos = 0 ∧
          (bin t b j).mag.toInt = fxmul build (fxsqrt build (max p 0)) (band s b).magScaler.toInt
      else
        t.t = false ∧ (bin t b j).q0.toInt = q0 ∧ (bin t b j).q1.toInt = q0 ∧ (bin t b j).q2 = (bin s b j).q1 ∧
          ((bin s b j).blkPos.toNat + 1 < 4294967296 → (bin t b j).blkPos.toNat = (bin s b j).blkPos.toNat + 1) ∧
          (bin t b j).mag = (bin s b j).mag

/-- R165: `BANK.UPD b` updates every bin of the band as `GZ.UPD` would update that bin from the state before, `BANKRDY` and `T`
take bin 0's flag, and every other register is left. Its word is 0x50bb0000. -/
def Obligations.BankUpdResult : Prop :=
  (∀ b < 256, decode .cmd (BitVec.ofNat 32 (0x50000000 + b * 0x10000)) = some (.bankUpd b)) ∧
    (∀ b, RefusedByMode (.bankUpd b) ∧ RefusedByIndex (.bankUpd b)) ∧
    ∀ (s : State) (b : Nat), s.mode = .running → b < s.nbands.toNat →
    ∃ t, exec (.bankUpd b) s = .next t ∧
      (∀ j < (band s b).size.toNat,
        ∃ u, exec (.gzUpd b j) s = .next u ∧ bin t b j = bin u b j ∧ (j = 0 → t.t = u.t)) ∧
      (band t b).bankRdy = t.t ∧
      FrameExcept
        (fun reg => reg = .regT ∨ reg = .bankRdy b ∨
          ∃ j < (band s b).size.toNat,
            reg = .q0 b j ∨ reg = .q1 b j ∨ reg = .q2 b j ∨ reg = .blkPos b j ∨ reg = .mag b j)
        s t

/-- The bank synchrony the spec derives in R165: from a band whose bins stand at position 0, the `k`-th `BANK.UPD` reports a block
boundary exactly when the block length divides `k`. -/
def Obligations.BankSynchrony : Prop :=
  ∀ (s : State) (b : Nat) (xs : List Word), s.mode = .running → ConfigValid s → b < s.nbands.toNat →
    (∀ j < (band s b).size.toNat, (bin s b j).blkPos = 0) → xs ≠ [] →
    ((bankFeed b xs s).t = true ↔ (band s b).blockLen.toNat ∣ xs.length) ∧
      ((band (bankFeed b xs s) b).bankRdy = true ↔ (band s b).blockLen.toNat ∣ xs.length)

/-- R166: `BANK.AGG b` puts in `R` the saturating sum of the magnitudes, times `SIZESCALER` when `CTRL.AGG_NORM` is 1, and changes
nothing else; over non-negative magnitudes that sum is the exact one cut off at `FX_MAX`. Its word is 0x51bb0000; other modes
record `CMD_MODE`, a band out of range `CMD_INDEX`. -/
def Obligations.BankAggResult : Prop :=
  (∀ b < 256, decode .cmd (BitVec.ofNat 32 (0x51000000 + b * 0x10000)) = some (.bankAgg b)) ∧
    (∀ b, RefusedByMode (.bankAgg b) ∧ RefusedByIndex (.bankAgg b)) ∧
    ∀ (s : State) (b : Nat), s.mode = .running → b < s.nbands.toNat →
    ∃ (w : Word) (sum : Int), exec (.bankAgg b) s = .next { s with r := w } ∧
      sum = (List.range (band s b).size.toNat).foldl (fun acc j => fxadd build acc (bin s b j).mag.toInt) 0 ∧
      w.toInt = (if s.aggNorm then fxmul build sum (band s b).sizeScaler.toInt else sum) ∧
      ((∀ j < (band s b).size.toNat, 0 ≤ (bin s b j).mag.toInt) →
        sum = min 2147483647 (∑ j ∈ Finset.range (band s b).size.toNat, (bin s b j).mag.toInt))

/-! ### The spectral-flux detector (spec/44_spectral_flux.md) -/

/-- R181, R182: `FLUX.UPD b` updates the bank as `BANK.UPD b` does; when the block completes it also advances `WRIDX` modulo 5,
stores the flux of the new magnitudes against `PREVMAG` at the new index, and moves the magnitudes to `PREVMAG`. Its word is
0x60bb0000; other modes record `CMD_MODE`, a band out of range `CMD_INDEX`. -/
def Obligations.FluxUpdResult : Prop :=
  (∀ b < 256, decode .cmd (BitVec.ofNat 32 (0x60000000 + b * 0x10000)) = some (.fluxUpd b)) ∧
    (∀ b, RefusedByMode (.fluxUpd b) ∧ RefusedByIndex (.fluxUpd b)) ∧
    ∀ (s : State) (b : Nat), s.mode = .running → b < s.nbands.toNat →
    ∃ t u, exec (.fluxUpd b) s = .next t ∧ exec (.bankUpd b) s = .next u ∧ t.t = u.t ∧
      (u.t = false → t = u) ∧
      (u.t = true →
        (band t b).wrIdx.toNat = ((band s b).wrIdx.toNat + 1) % 5 ∧
        ((band t b).fluxHist.get (((band s b).wrIdx.toNat + 1) % 5)).toInt =
          (List.range (band s b).size.toNat).foldl
            (fun flux j =>
              let d := fxsub build (bin u b j).mag.toInt (bin s b j).prevMag.toInt
              fxadd build flux (fxadd build d (fxabs build d))) 0 ∧
        (∀ j < (band s b).size.toNat, (bin t b j).prevMag = (bin u b j).mag) ∧
        FrameExcept
          (fun reg => reg = .wrIdx b ∨ reg = .fluxHist b (((band s b).wrIdx.toNat + 1) % 5) ∨
            ∃ j < (band s b).size.toNat, reg = .prevMag b j)
          u t)

/-- The flux the spec derives in R185: over non-negative magnitudes it is twice the sum of the increases, cut off at `FX_MAX`. -/
def Obligations.FluxIsTwiceTheIncreases : Prop :=
  ∀ bd : Band build, (∀ j, 0 ≤ (bd.bins.get j).mag.toInt ∧ 0 ≤ (bd.bins.get j).prevMag.toInt) →
    bd.flux =
      min 2147483647
        (∑ j ∈ Finset.range bd.size.toNat,
          2 * max ((bd.bins.get j).mag.toInt - (bd.bins.get j).prevMag.toInt) 0)

/-- R183, R184: `FLUX.ONSET b` puts in `T` whether the flux at `(WRIDX + 3) mod 5` is at least every flux of the window, and changes
nothing else. Its word is 0x61bb0000; other modes record `CMD_MODE`, a band out of range `CMD_INDEX`. -/
def Obligations.FluxOnsetResult : Prop :=
  (∀ b < 256, decode .cmd (BitVec.ofNat 32 (0x61000000 + b * 0x10000)) = some (.fluxOnset b)) ∧
    (∀ b, RefusedByMode (.fluxOnset b) ∧ RefusedByIndex (.fluxOnset b)) ∧
    ∀ (s : State) (b : Nat), s.mode = .running → b < s.nbands.toNat →
    ∃ x : Bool, exec (.fluxOnset b) s = .next { s with t := x } ∧
      (x = true ↔
        ∀ k < 5, ((band s b).fluxHist.get k).toInt ≤
          ((band s b).fluxHist.get (((band s b).wrIdx.toNat + 3) % 5)).toInt)

/-- The onset property the spec derives in R185 (d): with a strict maximum at slot `p`, `FLUX.ONSET` answers 1 exactly when
`(WRIDX + 3) mod 5 = p`. -/
def Obligations.OnsetAtStrictMaximum : Prop :=
  ∀ (s : State) (b p : Nat), s.mode = .running → b < s.nbands.toNat → p < 5 →
    (∀ k < 5, k ≠ p → ((band s b).fluxHist.get k).toInt < ((band s b).fluxHist.get p).toInt) →
    ∃ t, exec (.fluxOnset b) s = .next t ∧ (t.t = true ↔ ((band s b).wrIdx.toNat + 3) % 5 = p)

/-! ### The gain controller (spec/45_auto_gain.md) -/

/-- R191: `AGC.TICK` is 0x70000000; outside `RUNNING` it only records `CMD_MODE`, in `RUNNING` it completes. With the counter above 0
it only counts down. At 0 it reloads the counter; a low envelope moves the gain code up and a high one down, with `AGC_SWGAIN`,
`GBUS_LAST` and one control word `0x4000 + k`; else nothing more. -/
def Obligations.AgcTickResult : Prop :=
  decode .cmd 0x70000000#32 = some .agcTick ∧ RefusedByMode .agcTick ∧
    ∀ s : State, s.mode = .running →
      ∃ t, exec .agcTick s = .next t ∧
        (0 < s.agcHoldcnt.toNat →
          ∃ w : Word, t = { s with agcHoldcnt := w } ∧ w.toNat = s.agcHoldcnt.toNat - 1) ∧
        (s.agcHoldcnt.toNat = 0 →
          let low := (env s 0).val.toInt < s.agcLow.toInt ∧ s.agcStep.toNat ≠ 7
          let high := s.agcHigh.toInt < (env s 0).val.toInt ∧ s.agcStep.toNat ≠ 0
          (¬ low → ¬ high → t = { s with agcHoldcnt := s.agcHold }) ∧
          (low ∨ high →
            ∃ (k : BitVec 3) (w : BusWord),
              t = { s with
                agcHoldcnt := s.agcHold, agcStep := k, agcSwgain := s.agcSwtab.get k.toNat, gbusLast := w
                gainBus := s.gainBus ++ [w] } ∧
              w.toNat = 0x4000 + k.toNat ∧
              (low → k.toNat = s.agcStep.toNat + 1) ∧ (¬ low → k.toNat + 1 = s.agcStep.toNat)))

/-- The staircases the spec derives in R196, with `LOW <= HIGH` and the counter at 0. Upwards, from gain code 0 with the envelope below
`LOW`: after `n` ticks the words sent are the first `ceil(n / (H + 1))` of 0x4001 to 0x4007, and the code is their number.
Downwards, from code 7 with the envelope above `HIGH`: they are the first `ceil(n / (H + 1))` of 0x4006 down to 0x4000. -/
def Obligations.GainStaircase : Prop :=
  ∀ (s : State) (n : Nat), s.mode = .running → s.agcLow.toInt ≤ s.agcHigh.toInt → s.agcHoldcnt = 0 →
    let m := min 7 ((n + s.agcHold.toNat) / (s.agcHold.toNat + 1))
    ((env s 0).val.toInt < s.agcLow.toInt → s.agcStep = 0 →
      (agcTicks n s).agcStep.toNat = m ∧
        (agcTicks n s).gainBus = s.gainBus ++ (List.range m).map fun k => BitVec.ofNat 16 (0x4001 + k)) ∧
      (s.agcHigh.toInt < (env s 0).val.toInt → s.agcStep = 7 →
        (agcTicks n s).agcStep.toNat = 7 - m ∧
          (agcTicks n s).gainBus = s.gainBus ++ (List.range m).map fun k => BitVec.ofNat 16 (0x4006 - k))

/-- R36, R193, R35: no operation but reset takes a word off the gain bus; a word is added only when the gain code moves by one with the
hold-off at 0, and it is `0x4000` with the new code. -/
def Obligations.GainBusGrowsByOneStep : Prop :=
  ∀ (s t : State) (op : BusOp build) (rest : List (BusOp build)),
    s.pending = op :: rest → step s = .next t → op ≠ .reset →
    (t.gainBus = s.gainBus ∧ t.gbusLast = s.gbusLast ∧ (s.mode = .running → t.agcStep = s.agcStep)) ∨
      ∃ w : BusWord, t.gainBus = s.gainBus ++ [w] ∧ t.gbusLast = w ∧ w.toNat = 0x4000 + t.agcStep.toNat ∧
        s.agcHoldcnt = 0 ∧
        (t.agcStep.toNat = s.agcStep.toNat + 1 ∨ t.agcStep.toNat + 1 = s.agcStep.toNat)

/-! ### The per-sample sequence and the handoff (spec/46_pipeline.md) -/

/-- R203: `SAMPLE` always completes in `RUNNING`: the bias and envelope 0 take the sample, every band in use takes the conditioned
sample and is published if its block completed, the controller ticks on the new envelope, and everything else is left. A band in use
has a bin (R201; notes/assumptions/7.md speaks of the others). -/
def Obligations.SampleResult : Prop :=
  decode .cmd 0x02000000#32 = some .sample ∧ RefusedByMode .sample ∧
    ∀ s : State, s.mode = .running →
      ∃ t, exec .sample s = .next t ∧
        let x0 := (s.sampleIn.toNat : Int)
        let bias := fxadd build s.dcbBias.toInt (fxmul build s.dcbA0.toInt (fxsub build x0 s.dcbBias.toInt))
        let cond := fxsub build x0 bias
        t.dcbBias.toInt = bias ∧ (env t 0).val.toInt = envNewVal (env s 0) cond ∧
        (∀ b < s.nbands.toNat, 0 < (band s b).size.toNat →
          band t b =
            if (band s b).bankReady then ((band s b).fluxUpdate cond).publish s.aggNorm
            else (band s b).fluxUpdate cond) ∧
        (∃ u, exec .agcTick { s with envs := t.envs } = .next u ∧ t.agcHoldcnt = u.agcHoldcnt ∧
          t.agcStep = u.agcStep ∧ t.agcSwgain = u.agcSwgain ∧ t.gbusLast = u.gbusLast ∧ t.gainBus = u.gainBus) ∧
        t = { s with
          dcbBias := t.dcbBias, envs := t.envs, bands := t.bands, agcHoldcnt := t.agcHoldcnt, agcStep := t.agcStep
          agcSwgain := t.agcSwgain, gbusLast := t.gbusLast, gainBus := t.gainBus } ∧
        (∀ e, e ≠ 0 → env t e = env s e) ∧ (env t 0).atk = (env s 0).atk ∧ (env t 0).rel = (env s 0).rel ∧
        ∀ b, s.nbands.toNat ≤ b → band t b = band s b

/-- R207: a tick that completes band `b`'s block publishes: `OUT_MAG` takes the aggregate and `OUT_ONSET` the onset of the updated band,
`OUT_READY` is set, and `OUT_OVERRUN` counts, up to its largest value, a publication that found it set. Any other tick leaves the
four, and no tick writes the `TK_` registers. -/
def Obligations.SamplePublishes : Prop :=
  ∀ (s : State) (b : Nat), s.mode = .running → b < s.nbands.toNat → 0 < (band s b).size.toNat →
    ∃ t, exec .sample s = .next t ∧
      (band t b).bankRdy = (band s b).bankReady ∧
      (band t b).tkMag = (band s b).tkMag ∧ (band t b).tkOnset = (band s b).tkOnset ∧
      (band t b).tkReady = (band s b).tkReady ∧
      ((band s b).bankReady = true →
        (band t b).outMag.toInt = (band t b).bankAgg s.aggNorm ∧ (band t b).outOnset = (band t b).onset ∧
        (band t b).outReady = true ∧
        (band t b).outOverrun.toNat =
          if (band s b).outReady then min ((band s b).outOverrun.toNat + 1) 4294967295
          else (band s b).outOverrun.toNat) ∧
      ((band s b).bankReady = false →
        (band t b).outMag = (band s b).outMag ∧ (band t b).outOnset = (band s b).outOnset ∧
        (band t b).outReady = (band s b).outReady ∧ (band t b).outOverrun = (band s b).outOverrun)

/-- The publication ticks the spec derives in R206: from bins at position 0, the tick numbered `k` completes band `b`'s block exactly
when the block length divides `k`. -/
def Obligations.SampleBlockTicks : Prop :=
  ∀ (s : State) (b : Nat) (raws : List (BitVec build.ADC_BITS)), s.mode = .running → ConfigValid s →
    b < s.nbands.toNat → (∀ j < (band s b).size.toNat, (bin s b j).blkPos = 0) → raws ≠ [] →
    ((band (sampleFeed raws s) b).bankRdy = true ↔ (band s b).blockLen.toNat ∣ raws.length)

/-- R208: `TAKE b` is 0x03bb0000 on `CCMD`; it copies the published pair and its ready bit to the `TK_` registers and clears the ready
bit, and nothing else changes. Only `RUNNING` admits it; a band out of range records `CMD_INDEX`. -/
def Obligations.TakeResult : Prop :=
  (∀ b < 256, decode .ccmd (BitVec.ofNat 32 (0x03000000 + b * 0x10000)) = some (.take b) ∧
      decode .cmd (BitVec.ofNat 32 (0x03000000 + b * 0x10000)) = none) ∧
    (∀ b, RefusedByMode (.take b)) ∧
    ∀ (s : State) (b : Nat), s.mode = .running →
      (b < s.nbands.toNat →
        ∃ t, exec (.take b) s = .next t ∧ (band t b).tkReady = (band s b).outReady ∧
          (band t b).tkMag = (band s b).outMag ∧ (band t b).tkOnset = (band s b).outOnset ∧
          (band t b).outReady = false ∧
          FrameExcept
            (fun reg => reg = .tkReady b ∨ reg = .tkMag b ∨ reg = .tkOnset b ∨ reg = .outReady b) s t) ∧
      (s.nbands.toNat ≤ b → exec (.take b) s = .next { s with cause := firstCause s.cause .cmdIndex })

/-- R37, R207: while the block runs, a set `OUT_READY` is cleared by nothing but reset and that band's `TAKE`. -/
def Obligations.ReadyClearedOnlyByTake : Prop :=
  ∀ (s t : State) (op : BusOp build) (rest : List (BusOp build)) (b : Nat),
    s.pending = op :: rest → step s = .next t → s.mode = .running → (band s b).outReady = true →
    op ≠ .reset → op ≠ commandOp build (.take b) → b < 256 → (band t b).outReady = true

/-! ### The loader (spec/46_pipeline.md R210 to R216; notes/assumptions/9.md) -/

/-- R210: the loader's first failing check decides its result, in the order sample rate, then for each band block length before
frequency range, then size, block length above `NMAX`, number of bands; on a failure it issues no operation. That the last three are
taken in this order, each over all bands, is the model's choice (notes/assumptions/9.md); where only one of them fails it makes
no difference. -/
def Obligations.LoaderChecks : Prop :=
  ∀ (c : PhysConfig build) (w : LoaderWords build),
    (c.sampleRate ≤ 0 → loaderCheck c = .cfgSampleRate) ∧
    (0 < c.sampleRate → ∀ b < c.bands.length,
      (∀ b' < b, (c.bands.getD b' ⟨0, 0, 0⟩).blockLen ≠ 0 ∧
        (c.bands.getD b' ⟨0, 0, 0⟩).startFreq < (c.bands.getD b' ⟨0, 0, 0⟩).endFreq) →
      ((c.bands.getD b ⟨0, 0, 0⟩).blockLen = 0 → loaderCheck c = .cfgBlocklen) ∧
      ((c.bands.getD b ⟨0, 0, 0⟩).blockLen ≠ 0 →
        (c.bands.getD b ⟨0, 0, 0⟩).endFreq ≤ (c.bands.getD b ⟨0, 0, 0⟩).startFreq →
        loaderCheck c = .cfgFreqRange)) ∧
    (0 < c.sampleRate → (∀ pb ∈ c.bands, pb.blockLen ≠ 0 ∧ pb.startFreq < pb.endFreq) →
      ((∃ pb ∈ c.bands, 256 < bankSize c pb) → loaderCheck c = .cfgSize) ∧
      ((∀ pb ∈ c.bands, bankSize c pb ≤ 256) →
        ((∃ pb ∈ c.bands, 32767 < pb.blockLen) → loaderCheck c = .cfgBlocklen) ∧
        ((∀ pb ∈ c.bands, pb.blockLen ≤ 32767) →
          (c.bands.length = 0 ∨ 8 < c.bands.length → loaderCheck c = .cfgNbands) ∧
          (1 ≤ c.bands.length → c.bands.length ≤ 8 → loaderCheck c = .none)))) ∧
    (loaderCheck c ≠ .none → hostProgram (loaderProgram c w) = [])

/-- From reset, the loader's program leaves the block running, with no error, the configuration registers at the words it wrote, and
the thresholds and the gain table at their reset values where it writes none (R215, R263); its one read, of `STATUS` after `INIT`,
answers the word that means success (R263 (4)). -/
def Obligations.LoaderConfigures : Prop :=
  ∀ (c : PhysConfig build) (w : LoaderWords build), loaderCheck c = .none →
    ∃ t, Sys2Proof.core.run (hostProgram (loaderProgram c w)).length
        { State.reset with pending := hostProgram (loaderProgram c w) } = .next t ∧
      t.pending = [] ∧ t.mode = .running ∧ t.cause = .none ∧ t.nbands.toNat = c.bands.length ∧
      (∀ b < c.bands.length,
        (band t b).blockLen.toNat = (c.bands.getD b ⟨0, 0, 0⟩).blockLen ∧
        (band t b).size.toNat = bankSize c (c.bands.getD b ⟨0, 0, 0⟩) ∧
        ∀ j < bankSize c (c.bands.getD b ⟨0, 0, 0⟩),
          (bin t b j).coef = (w.coef.getD b []).getD j 0) ∧
      t.dcbA0 = w.dcbA0 ∧ (env t 0).atk = w.envAtk ∧ (env t 0).rel = w.envRel ∧ t.agcHold = c.hold ∧
      t.agcLow = c.low.getD 0x00000400#32 ∧ t.agcHigh = c.high.getD 0x00002000#32 ∧ t.aggNorm = c.aggNorm ∧
      (∀ table, c.gainTable = some table → ∀ k < 8, t.agcSwtab.get k = table.toList.getD k 0) ∧
      (c.gainTable = none → ∀ k < 8, t.agcSwtab.get k = State.reset.agcSwtab.get k) ∧
      ∃ data : Word, t.answers = [{ port := .p, addr := 0x0002#16, data := data }] ∧ data = 0x00000001#32 ∧
        startUpSucceeded data = true

/-! ### `STATUS` (spec/10_state.md R24, spec/60_exceptions.md R230, R231) -/

/-- R24, R230, R231: `STATUS` reads as the code of the mode in bits 1:0 and the code of the cause in bits 15:8, every other bit 0. -/
def Obligations.StatusReads : Prop :=
  (∀ s : State, (readReg s .status).toNat =
    (match s.mode with
      | .unconfigured => 0
      | .running => 1
      | .failed => 2) +
      256 *
        (match s.cause with
          | .none => 0
          | .cfgSampleRate => 1
          | .cfgBlocklen => 2
          | .cfgFreqRange => 3
          | .cfgSize => 4
          | .cfgNbands => 5
          | .cmdIllegal => 8
          | .cmdIndex => 9
          | .cmdMode => 10
          | .busAddr => 11
          | .busAccess => 12)) ∧
    readReg { State.reset with mode := .failed, cause := .cfgNbands } .status = 0x00000502#32 ∧
    readReg { State.reset with mode := .running, cause := .cmdIndex } .status = 0x00000901#32 ∧
    readReg { State.reset with cause := .busAddr } .status = 0x00000B00#32

/-! ### Every build (spec/00_scope.md R7 to R9) -/

/-- The number format of R7 in every build it admits: the largest and smallest readings, a word for every reading between them, `NMAX`
the largest integer that converts without saturating, room for the Goertzel coefficient (-2 to 2), and no root beyond the largest
reading. The build of the defaults is one of them. -/
def Obligations.BuildFormat : Prop :=
  Config.build.Legal ∧
    ∀ p : Build, p.FormatLegal →
      p.FX_MAX = 2 ^ (p.W - 1) - 1 ∧ p.FX_MIN = -2 ^ (p.W - 1) ∧ p.ONE = 2 ^ p.F ∧
        (∀ z : Int, p.FX_MIN ≤ z → z ≤ p.FX_MAX → (word p z).toInt = z) ∧
        (∀ w : WordOf p, p.FX_MIN ≤ w.toInt ∧ w.toInt ≤ p.FX_MAX) ∧
        (∀ n : Nat, fxfromint p n = n * p.ONE ↔ n ≤ p.NMAX) ∧
        p.FX_MIN ≤ -2 * p.ONE ∧ 2 * p.ONE ≤ p.FX_MAX ∧
        ∀ z : Int, z ≤ p.FX_MAX → 0 ≤ fxsqrt p z ∧ fxsqrt p z ≤ p.FX_MAX

/-- Every legal build, from reset on, keeps the invariants that the build of the defaults keeps (R24, R31, R33, R35, R36, R39, R193). -/
def Obligations.EveryBuildKeepsInvariants : Prop :=
  ∀ p : Build, p.Legal →
    (ConfigInv (resetState p) ∧ GainInv (resetState p) ∧ LifecycleInv (resetState p) ∧ UnusedInv (resetState p) ∧
      BandInv (resetState p)) ∧
      ∀ s t : StateOf p,
        ConfigInv s → GainInv s → LifecycleInv s → UnusedInv s → BandInv s → stepAt s = .next t →
        ConfigInv t ∧ GainInv t ∧ LifecycleInv t ∧ UnusedInv t ∧ BandInv t
end

