-- ==== Sys2Proof/Laws/Fixed.lean ====
section
/-!
SUPPORT. The laws of the arithmetic primitives: what `sat`, `fdiv`, `asr` and `isqrt` are, the range of every
fixed-point function, and that a word holds a reading in range; first in any build, then at the numbers of `Config.build`.
-/

namespace Sys2Proof.Machine

/-! ### Any build -/

section
variable {p : Build}

/-- The integers the signed reading of a word can be. -/
abbrev Fits (p : Build) (z : Int) : Prop := p.FX_MIN ≤ z ∧ z ≤ p.FX_MAX

theorem FX_MAX_eq_pow : p.FX_MAX = 2 ^ (p.W - 1) - 1 := by
  simp [Build.FX_MAX]

theorem FX_MIN_eq_pow : p.FX_MIN = -2 ^ (p.W - 1) := by
  simp [Build.FX_MIN]

theorem FX_MIN_neg : p.FX_MIN < 0 := by
  have h : (0 : Int) < 2 ^ (p.W - 1) := by positivity
  rw [FX_MIN_eq_pow]; omega

theorem FX_MAX_nonneg : 0 ≤ p.FX_MAX := by
  have h : (0 : Int) < 2 ^ (p.W - 1) := by positivity
  rw [FX_MAX_eq_pow]; omega

theorem sat_fits (z : Int) : Fits p (sat p z) := by
  have h1 := FX_MIN_neg (p := p)
  have h2 := FX_MAX_nonneg (p := p)
  unfold sat
  split
  · exact ⟨by omega, by omega⟩
  · split <;> exact ⟨by omega, by omega⟩

theorem sat_of_fits {z : Int} (h : Fits p z) : sat p z = z := by
  obtain ⟨h1, h2⟩ := h
  unfold sat
  rw [if_neg (by omega), if_neg (by omega)]

theorem sat_eq_clamp (z : Int) : sat p z = max p.FX_MIN (min p.FX_MAX z) := by
  have h1 := FX_MIN_neg (p := p)
  have h2 := FX_MAX_nonneg (p := p)
  unfold sat
  split
  · omega
  · split <;> omega

theorem sat_nonneg {z : Int} (h : 0 ≤ z) : 0 ≤ sat p z := by
  have h1 := FX_MIN_neg (p := p)
  have h2 := FX_MAX_nonneg (p := p)
  unfold sat
  split
  · omega
  · split <;> omega

/-- In a build with a word to speak of, a word's signed reading is the integer written to it, when that fits. -/
theorem toInt_word_of_fits (hW : 1 ≤ p.W) {z : Int} (h : Fits p z) : (word p z).toInt = z := by
  obtain ⟨h1, h2⟩ := h
  rw [FX_MIN_eq_pow] at h1
  rw [FX_MAX_eq_pow] at h2
  have h3 : ((2 ^ p.W : Nat) : Int) = 2 * 2 ^ (p.W - 1) := by
    obtain ⟨k, hk⟩ : ∃ k, p.W = k + 1 := ⟨p.W - 1, by omega⟩
    rw [hk]; push_cast; rw [pow_succ]; ring
  unfold word
  rw [BitVec.toInt_ofInt]
  exact Int.bmod_eq_of_le (by rw [h3]; omega) (by rw [h3]; omega)

/-- A word's signed reading fits. -/
theorem toInt_fits (w : WordOf p) : Fits p w.toInt := by
  have h1 := BitVec.toInt_lt (x := w)
  have h2 := BitVec.le_toInt (x := w)
  exact ⟨by rw [FX_MIN_eq_pow]; exact h2, by rw [FX_MAX_eq_pow]; omega⟩

theorem fxmul_fits (a b : Int) : Fits p (fxmul p a b) := sat_fits _
theorem fxadd_fits (a b : Int) : Fits p (fxadd p a b) := sat_fits _
theorem fxsub_fits (a b : Int) : Fits p (fxsub p a b) := sat_fits _
theorem fxfromint_fits (a : Int) : Fits p (fxfromint p a) := sat_fits _

theorem fxrcp_fits (a : Int) : Fits p (fxrcp p a) := by
  unfold fxrcp
  split
  · exact ⟨by have := FX_MIN_neg (p := p); have := FX_MAX_nonneg (p := p); omega, Int.le_refl _⟩
  · exact sat_fits _

theorem fxabs_fits {a : Int} (h : Fits p a) : Fits p (fxabs p a) := by
  unfold fxabs
  split
  · exact sat_fits _
  · exact h

theorem fxabs_nonneg (a : Int) : 0 ≤ fxabs p a := by
  unfold fxabs
  split
  · exact sat_nonneg (by omega)
  · omega

theorem fxsqrt_nonneg (a : Int) : 0 ≤ fxsqrt p a := by
  unfold fxsqrt
  split
  · exact Int.le_refl 0
  · exact Int.natCast_nonneg _

/-- The product of two readings that are not negative is not negative. -/
theorem fxmul_nonneg {a b : Int} (ha : 0 ≤ a) (hb : 0 ≤ b) : 0 ≤ fxmul p a b := by
  unfold fxmul asr fdiv
  have h : ¬ Int.ofNat (Nat.pow 2 p.F) < 0 := by simp
  rw [if_neg h]
  exact sat_nonneg (Int.ediv_nonneg (Int.mul_nonneg ha hb) (by simp))

end

/-! ### Integers -/

theorem fdiv_pos {a b : Int} (h : 0 < b) : fdiv a b = a / b := by
  unfold fdiv; rw [if_neg (by omega)]

/-- Floor division by a negative divisor: the quotient is at most the exact one, and the next is above it. -/
theorem fdiv_neg_spec {a b : Int} (h : b < 0) : a ≤ fdiv a b * b ∧ (fdiv a b + 1) * b < a := by
  unfold fdiv
  rw [if_pos h]
  have h1 : 0 < -b := by omega
  have h2 := Int.mul_ediv_add_emod (-a) (-b)
  have h3 := Int.emod_nonneg (-a) (b := -b) (by omega)
  have h4 := Int.emod_lt_of_pos (-a) h1
  constructor <;> nlinarith

/-- The bit loop keeps the root at most exact, and the final root is within one. -/
theorem isqrtBits_spec (z : Nat) :
    ∀ k r, r * r ≤ z → z < (r + 2 ^ k) * (r + 2 ^ k) →
      isqrtBits z k r * isqrtBits z k r ≤ z ∧ z < (isqrtBits z k r + 1) * (isqrtBits z k r + 1) := by
  intro k
  induction k with
  | zero => intro r h1 h2; exact ⟨h1, by simpa [isqrtBits] using h2⟩
  | succ k ih =>
    intro r h1 h2
    have hp : Nat.pow 2 k = 2 ^ k := rfl
    unfold isqrtBits
    rw [hp]
    split
    next h => exact ih _ h (by rw [pow_succ] at h2; ring_nf at h2 ⊢; exact h2)
    next h => exact ih _ h1 (by omega)

/-- R14: `isqrt(z)` is the largest integer whose square is at most `z`. -/
theorem isqrt_spec (z : Nat) : isqrt z * isqrt z ≤ z ∧ z < (isqrt z + 1) * (isqrt z + 1) := by
  refine isqrtBits_spec z _ 0 (Nat.zero_le z) ?_
  have h1 : z < 2 ^ (Nat.log2 z + 1) := Nat.lt_log2_self
  have h2 : Nat.log2 z + 1 ≤ (Nat.log2 z / 2 + 1) + (Nat.log2 z / 2 + 1) := by omega
  calc z < 2 ^ (Nat.log2 z + 1) := h1
    _ ≤ 2 ^ ((Nat.log2 z / 2 + 1) + (Nat.log2 z / 2 + 1)) := Nat.pow_le_pow_right (by decide) h2
    _ = _ := by rw [pow_add]; ring

/-! ### The default build -/

@[simp] theorem FX_MAX_eq : Config.build.FX_MAX = 2147483647 := by decide
@[simp] theorem FX_MIN_eq : Config.build.FX_MIN = -2147483648 := by decide
@[simp] theorem ONE_eq : Config.build.ONE = 65536 := by decide
@[simp] theorem NMAX_eq : Config.build.NMAX = 32767 := by decide

/-- The integers a word's signed reading can be. -/
abbrev InRange (z : Int) : Prop := -2147483648 ≤ z ∧ z ≤ 2147483647

theorem fits_build (z : Int) : Fits Config.build z ↔ InRange z := by
  unfold Fits; rw [FX_MIN_eq, FX_MAX_eq]

theorem sat_eq (z : Int) : sat Config.build z = max (-2147483648) (min 2147483647 z) := by
  unfold sat
  simp only [FX_MIN_eq, FX_MAX_eq]
  split
  · omega
  · split <;> omega

theorem sat_inRange (z : Int) : InRange (sat Config.build z) := by rw [sat_eq]; omega

theorem sat_of_inRange {z : Int} (h : InRange z) : sat Config.build z = z := by
  rw [sat_eq]; obtain ⟨h1, h2⟩ := h; omega

theorem toInt_inRange (w : Word) : InRange w.toInt := by
  have h1 := BitVec.toInt_lt (x := w)
  have h2 := BitVec.le_toInt (x := w)
  norm_num at h1 h2
  exact ⟨by omega, by omega⟩

/-- A word's signed reading is the integer written to it, when that fits. -/
theorem toInt_word {z : Int} (h : InRange z) : (word Config.build z).toInt = z := by
  obtain ⟨h1, h2⟩ := h
  unfold word
  rw [BitVec.toInt_ofInt]
  exact Int.bmod_eq_of_le (by norm_num; omega) (by norm_num; omega)

theorem word_toInt (w : Word) : word Config.build w.toInt = w := BitVec.ofInt_toInt

theorem asr_eq (z : Int) : asr z Config.build.F = z / 65536 := fdiv_pos (by decide)

theorem fxmul_eq (a b : Int) : fxmul Config.build a b = sat Config.build (a * b / 65536) := by unfold fxmul; rw [asr_eq]

theorem fxtoint_eq (a : Int) : fxtoint Config.build a = a / 65536 := asr_eq a

theorem fxmul_inRange (a b : Int) : InRange (fxmul Config.build a b) := sat_inRange _
theorem fxadd_inRange (a b : Int) : InRange (fxadd Config.build a b) := sat_inRange _
theorem fxsub_inRange (a b : Int) : InRange (fxsub Config.build a b) := sat_inRange _
theorem fxfromint_inRange (a : Int) : InRange (fxfromint Config.build a) := sat_inRange _

theorem fxrcp_inRange (a : Int) : InRange (fxrcp Config.build a) := by
  unfold fxrcp
  split
  · exact ⟨by simp, by simp⟩
  · exact sat_inRange _

theorem fxabs_inRange {a : Int} (h : InRange a) : InRange (fxabs Config.build a) := by
  unfold fxabs
  split
  · exact sat_inRange _
  · exact h

theorem fxtoint_inRange {a : Int} (h : InRange a) : InRange (fxtoint Config.build a) := by
  rw [fxtoint_eq]; obtain ⟨h1, h2⟩ := h; constructor <;> omega

theorem fxsqrt_inRange {a : Int} (h : InRange a) : InRange (fxsqrt Config.build a) := by
  unfold fxsqrt
  split
  · exact ⟨by decide, by decide⟩
  next ha =>
    obtain ⟨h1, h2⟩ := h
    have h3 := (isqrt_spec (a.toNat * Nat.pow 2 Config.build.F)).1
    have h4 : a.toNat * Nat.pow 2 Config.build.F ≤ 2147483647 * 65536 :=
      Nat.mul_le_mul (by omega) (by decide)
    have h5 : isqrt (a.toNat * Nat.pow 2 Config.build.F) ≤ 2147483647 := by
      by_contra hc
      have h6 : 2147483648 ≤ isqrt (a.toNat * Nat.pow 2 Config.build.F) := by omega
      have h7 := Nat.mul_le_mul h6 h6
      omega
    exact ⟨le_trans (by decide) (Int.natCast_nonneg _), by simpa using h5⟩

end Sys2Proof.Machine
end

