-- ==== Sys2Proof/Laws/Table.lean ====
section
/-!
SUPPORT. The laws of register arrays: a read after a write, after a loop, and that a table is determined by its cells.
-/

namespace Sys2Proof.Machine

section
variable {α : Type} {d : α}

theorem getEntries_of_canonicalFrom {l : List (Nat × α)} :
    ∀ {lo k : Nat}, canonicalFrom d lo l → k < lo → getEntries d l k = d := by
  induction l with
  | nil => intros; rfl
  | cons e rest ih =>
    intro lo k h hk
    have h1 : lo ≤ e.1 := h.1
    unfold getEntries
    split
    next h2 => omega
    next => exact ih h.2.2 (by omega)

@[simp] theorem Table.get_empty (k : Nat) : (Table.empty : Table α d).get k = d := rfl

variable [DecidableEq α]

theorem getEntries_putEntry_same {k : Nat} {v : α} {l : List (Nat × α)} (h : canonicalFrom d (k + 1) l) :
    getEntries d (putEntry d k v l) k = v := by
  unfold putEntry
  split
  next hv => rw [getEntries_of_canonicalFrom h (Nat.lt_succ_self k), hv]
  next => simp [getEntries]

theorem getEntries_putEntry_other {k k' : Nat} {v : α} {l : List (Nat × α)} (h : k' ≠ k) :
    getEntries d (putEntry d k v l) k' = getEntries d l k' := by
  unfold putEntry
  split
  · rfl
  · simp [getEntries, h]

theorem getEntries_setEntries {k : Nat} {v : α} {l : List (Nat × α)} :
    ∀ {lo : Nat}, canonicalFrom d lo l →
      ∀ k', getEntries d (setEntries d l k v) k' = if k' = k then v else getEntries d l k' := by
  induction l with
  | nil =>
    intro lo _ k'
    unfold setEntries
    by_cases hk : k' = k
    · subst hk; simp [getEntries_putEntry_same (d := d) (l := []) (k := k') trivial]
    · simp [getEntries_putEntry_other hk, hk]
  | cons e rest ih =>
    obtain ⟨k₀, v₀⟩ := e
    intro lo h k'
    unfold setEntries
    by_cases hk : k' = k
    · subst hk
      rw [if_pos rfl]
      split
      next hlt => exact getEntries_putEntry_same ⟨hlt, h.2⟩
      next hlt =>
        split
        next heq => exact getEntries_putEntry_same (heq ▸ h.2.2)
        next heq => rw [getEntries, if_neg heq, ih h.2.2, if_pos rfl]
    · rw [if_neg hk]
      split
      next => exact getEntries_putEntry_other hk
      next hlt =>
        split
        next heq =>
          rw [getEntries_putEntry_other hk, getEntries, if_neg (heq ▸ hk)]
        next heq =>
          rw [getEntries, getEntries, ih h.2.2, if_neg hk]

theorem getEntries_updEntries {f : Nat → α → α} {m : Nat} :
    ∀ {k : Nat} {l : List (Nat × α)}, canonicalFrom d k l →
      ∀ i, getEntries d (updEntries d f m k l) i =
        if k ≤ i ∧ i < k + m then f i (getEntries d l i) else getEntries d l i := by
  induction m with
  | zero => intro k l _ i; rw [if_neg (by omega)]; rfl
  | succ m ih =>
    intro k l h i
    match l with
    | [] =>
      unfold updEntries
      by_cases hi : i = k
      · subst hi
        rw [getEntries_putEntry_same (canonicalFrom_updEntries (l := []) trivial), if_pos (by omega)]; rfl
      · rw [getEntries_putEntry_other hi, ih (l := []) trivial]
        simp only [show (k + 1 ≤ i ∧ i < k + 1 + m) ↔ (k ≤ i ∧ i < k + (m + 1)) by omega]
    | (k', v') :: rest =>
      have hle : k ≤ k' := h.1
      unfold updEntries
      split
      next hk =>
        subst hk
        by_cases hi : i = k'
        · subst hi
          rw [getEntries_putEntry_same (canonicalFrom_updEntries h.2.2), if_pos (by omega), getEntries,
            if_pos rfl]
        · rw [getEntries_putEntry_other hi, ih h.2.2, getEntries, if_neg hi]
          simp only [show (k' + 1 ≤ i ∧ i < k' + 1 + m) ↔ (k' ≤ i ∧ i < k' + (m + 1)) by omega]
      next hk =>
        have hc : canonicalFrom d (k + 1) ((k', v') :: rest) := ⟨by omega, h.2⟩
        by_cases hi : i = k
        · subst hi
          rw [getEntries_putEntry_same (canonicalFrom_updEntries hc), if_pos (by omega),
            getEntries_of_canonicalFrom hc (Nat.lt_succ_self i)]
        · rw [getEntries_putEntry_other hi, ih hc]
          simp only [show (k + 1 ≤ i ∧ i < k + 1 + m) ↔ (k ≤ i ∧ i < k + (m + 1)) by omega]

/-- A cell reads what was written to it last. -/
theorem Table.get_set (t : Table α d) (k k' : Nat) (v : α) :
    (t.set k v).get k' = if k' = k then v else t.get k' :=
  getEntries_setEntries t.canonical k'

@[simp] theorem Table.get_set_same (t : Table α d) (k : Nat) (v : α) : (t.set k v).get k = v := by
  rw [Table.get_set, if_pos rfl]

theorem Table.get_set_other (t : Table α d) {k k' : Nat} (v : α) (h : k' ≠ k) :
    (t.set k v).get k' = t.get k' := by
  rw [Table.get_set, if_neg h]

/-- A loop over the cells below `n` changes exactly those. -/
theorem Table.get_updBelow (t : Table α d) (n : Nat) (f : Nat → α → α) (k : Nat) :
    (Table.updBelow n f t).get k = if k < n then f k (t.get k) else t.get k := by
  show getEntries d (updEntries d f n 0 t.entries) k = _
  rw [getEntries_updEntries t.canonical]
  simp only [Nat.zero_le, true_and, Nat.zero_add]
  rfl

/-- The cells of a table made from a list. -/
theorem Table.get_ofList (l : List α) (k : Nat) : (Table.ofList l : Table α d).get k = l.getD k d := by
  unfold Table.ofList
  rw [Table.get_updBelow]
  split
  · rfl
  · simp_all [List.getD]

omit [DecidableEq α] in
theorem entries_eq_of_getEntries_eq :
    ∀ {l l' : List (Nat × α)} {lo : Nat}, canonicalFrom d lo l → canonicalFrom d lo l' →
      (∀ k, getEntries d l k = getEntries d l' k) → l = l' := by
  intro l
  induction l with
  | nil =>
    intro l' lo _ h' hg
    cases l' with
    | nil => rfl
    | cons e rest => exact absurd (by simpa [getEntries] using (hg e.1).symm) h'.2.1
  | cons e rest ih =>
    obtain ⟨k, v⟩ := e
    intro l' lo h h' hg
    cases l' with
    | nil => exact absurd (by simpa [getEntries] using hg k) h.2.1
    | cons e' rest' =>
      obtain ⟨k', v'⟩ := e'
      have hk : k = k' := by
        rcases Nat.lt_trichotomy k k' with hlt | heq | hlt
        · have h1 := hg k
          rw [getEntries, if_pos rfl, getEntries_of_canonicalFrom (l := (k', v') :: rest') (lo := k + 1)
            ⟨hlt, h'.2⟩ (Nat.lt_succ_self k)] at h1
          exact absurd h1 h.2.1
        · exact heq
        · have h1 := hg k'
          rw [getEntries_of_canonicalFrom (l := (k, v) :: rest) (lo := k' + 1)
            ⟨hlt, h.2⟩ (Nat.lt_succ_self k'), getEntries, if_pos rfl] at h1
          exact absurd h1.symm h'.2.1
      subst hk
      have hv : v = v' := by simpa [getEntries] using hg k
      subst hv
      have hrest : rest = rest' := by
        refine ih h.2.2 h'.2.2 fun i => ?_
        by_cases hi : i = k
        · subst hi
          rw [getEntries_of_canonicalFrom h.2.2 (Nat.lt_succ_self i),
            getEntries_of_canonicalFrom h'.2.2 (Nat.lt_succ_self i)]
        · simpa [getEntries, hi] using hg i
      rw [hrest]

omit [DecidableEq α] in
/-- Two tables with the same cells are equal data. -/
@[ext] theorem Table.ext_get {t t' : Table α d} (h : ∀ k, t.get k = t'.get k) : t = t' := by
  obtain ⟨l, hl⟩ := t
  obtain ⟨l', hl'⟩ := t'
  have : l = l' := entries_eq_of_getEntries_eq hl hl' h
  subst this
  rfl

/-- Writing to a cell what it holds changes nothing. -/
@[simp] theorem Table.set_get (t : Table α d) (k : Nat) : t.set k (t.get k) = t := by
  ext i
  rw [Table.get_set]
  split
  next h => rw [h]
  next => rfl

theorem Table.set_set (t : Table α d) (k : Nat) (v v' : α) : (t.set k v).set k v' = t.set k v' := by
  ext i
  simp only [Table.get_set]
  split <;> rfl

end

end Sys2Proof.Machine
end

