-- ==== Sys2Proof/Laws/State.lean ====
section
/-!
SUPPORT. One lemma per field per update of the state and of a band, true by `rfl`, so that no proof unfolds a record
update; and the reads of the four register groups after each write.
-/

namespace Sys2Proof.Machine

section
variable {p : Build} (s : StateOf p)

@[simp] theorem writeR_mode (z : Int) : (writeR z s).mode = s.mode := rfl
@[simp] theorem writeR_cause (z : Int) : (writeR z s).cause = s.cause := rfl
@[simp] theorem writeR_a (z : Int) : (writeR z s).a = s.a := rfl
@[simp] theorem writeR_b (z : Int) : (writeR z s).b = s.b := rfl
@[simp] theorem writeR_r (z : Int) : (writeR z s).r = word p z := rfl
@[simp] theorem writeR_t (z : Int) : (writeR z s).t = s.t := rfl
@[simp] theorem writeR_sampleIn (z : Int) : (writeR z s).sampleIn = s.sampleIn := rfl
@[simp] theorem writeR_aggNorm (z : Int) : (writeR z s).aggNorm = s.aggNorm := rfl
@[simp] theorem writeR_nbands (z : Int) : (writeR z s).nbands = s.nbands := rfl
@[simp] theorem writeR_dcbA0 (z : Int) : (writeR z s).dcbA0 = s.dcbA0 := rfl
@[simp] theorem writeR_dcbBias (z : Int) : (writeR z s).dcbBias = s.dcbBias := rfl
@[simp] theorem writeR_envs (z : Int) : (writeR z s).envs = s.envs := rfl
@[simp] theorem writeR_bands (z : Int) : (writeR z s).bands = s.bands := rfl
@[simp] theorem writeR_agcLow (z : Int) : (writeR z s).agcLow = s.agcLow := rfl
@[simp] theorem writeR_agcHigh (z : Int) : (writeR z s).agcHigh = s.agcHigh := rfl
@[simp] theorem writeR_agcHold (z : Int) : (writeR z s).agcHold = s.agcHold := rfl
@[simp] theorem writeR_agcSwtab (z : Int) : (writeR z s).agcSwtab = s.agcSwtab := rfl
@[simp] theorem writeR_agcHoldcnt (z : Int) : (writeR z s).agcHoldcnt = s.agcHoldcnt := rfl
@[simp] theorem writeR_agcStep (z : Int) : (writeR z s).agcStep = s.agcStep := rfl
@[simp] theorem writeR_agcSwgain (z : Int) : (writeR z s).agcSwgain = s.agcSwgain := rfl
@[simp] theorem writeR_gbusLast (z : Int) : (writeR z s).gbusLast = s.gbusLast := rfl
@[simp] theorem writeR_gainBus (z : Int) : (writeR z s).gainBus = s.gainBus := rfl
@[simp] theorem writeR_pending (z : Int) : (writeR z s).pending = s.pending := rfl
@[simp] theorem writeR_answers (z : Int) : (writeR z s).answers = s.answers := rfl

@[simp] theorem writeT_mode (x : Bool) : (writeT x s).mode = s.mode := rfl
@[simp] theorem writeT_cause (x : Bool) : (writeT x s).cause = s.cause := rfl
@[simp] theorem writeT_a (x : Bool) : (writeT x s).a = s.a := rfl
@[simp] theorem writeT_b (x : Bool) : (writeT x s).b = s.b := rfl
@[simp] theorem writeT_r (x : Bool) : (writeT x s).r = s.r := rfl
@[simp] theorem writeT_t (x : Bool) : (writeT x s).t = x := rfl
@[simp] theorem writeT_sampleIn (x : Bool) : (writeT x s).sampleIn = s.sampleIn := rfl
@[simp] theorem writeT_aggNorm (x : Bool) : (writeT x s).aggNorm = s.aggNorm := rfl
@[simp] theorem writeT_nbands (x : Bool) : (writeT x s).nbands = s.nbands := rfl
@[simp] theorem writeT_dcbA0 (x : Bool) : (writeT x s).dcbA0 = s.dcbA0 := rfl
@[simp] theorem writeT_dcbBias (x : Bool) : (writeT x s).dcbBias = s.dcbBias := rfl
@[simp] theorem writeT_envs (x : Bool) : (writeT x s).envs = s.envs := rfl
@[simp] theorem writeT_bands (x : Bool) : (writeT x s).bands = s.bands := rfl
@[simp] theorem writeT_agcLow (x : Bool) : (writeT x s).agcLow = s.agcLow := rfl
@[simp] theorem writeT_agcHigh (x : Bool) : (writeT x s).agcHigh = s.agcHigh := rfl
@[simp] theorem writeT_agcHold (x : Bool) : (writeT x s).agcHold = s.agcHold := rfl
@[simp] theorem writeT_agcSwtab (x : Bool) : (writeT x s).agcSwtab = s.agcSwtab := rfl
@[simp] theorem writeT_agcHoldcnt (x : Bool) : (writeT x s).agcHoldcnt = s.agcHoldcnt := rfl
@[simp] theorem writeT_agcStep (x : Bool) : (writeT x s).agcStep = s.agcStep := rfl
@[simp] theorem writeT_agcSwgain (x : Bool) : (writeT x s).agcSwgain = s.agcSwgain := rfl
@[simp] theorem writeT_gbusLast (x : Bool) : (writeT x s).gbusLast = s.gbusLast := rfl
@[simp] theorem writeT_gainBus (x : Bool) : (writeT x s).gainBus = s.gainBus := rfl
@[simp] theorem writeT_pending (x : Bool) : (writeT x s).pending = s.pending := rfl
@[simp] theorem writeT_answers (x : Bool) : (writeT x s).answers = s.answers := rfl

@[simp] theorem writeBand_mode (i : Nat) (bd : Band p) : (writeBand i bd s).mode = s.mode := rfl
@[simp] theorem writeBand_cause (i : Nat) (bd : Band p) : (writeBand i bd s).cause = s.cause := rfl
@[simp] theorem writeBand_a (i : Nat) (bd : Band p) : (writeBand i bd s).a = s.a := rfl
@[simp] theorem writeBand_b (i : Nat) (bd : Band p) : (writeBand i bd s).b = s.b := rfl
@[simp] theorem writeBand_r (i : Nat) (bd : Band p) : (writeBand i bd s).r = s.r := rfl
@[simp] theorem writeBand_t (i : Nat) (bd : Band p) : (writeBand i bd s).t = s.t := rfl
@[simp] theorem writeBand_sampleIn (i : Nat) (bd : Band p) : (writeBand i bd s).sampleIn = s.sampleIn := rfl
@[simp] theorem writeBand_aggNorm (i : Nat) (bd : Band p) : (writeBand i bd s).aggNorm = s.aggNorm := rfl
@[simp] theorem writeBand_nbands (i : Nat) (bd : Band p) : (writeBand i bd s).nbands = s.nbands := rfl
@[simp] theorem writeBand_dcbA0 (i : Nat) (bd : Band p) : (writeBand i bd s).dcbA0 = s.dcbA0 := rfl
@[simp] theorem writeBand_dcbBias (i : Nat) (bd : Band p) : (writeBand i bd s).dcbBias = s.dcbBias := rfl
@[simp] theorem writeBand_envs (i : Nat) (bd : Band p) : (writeBand i bd s).envs = s.envs := rfl
@[simp] theorem writeBand_bands (i : Nat) (bd : Band p) : (writeBand i bd s).bands = s.bands.set i bd := rfl
@[simp] theorem writeBand_agcLow (i : Nat) (bd : Band p) : (writeBand i bd s).agcLow = s.agcLow := rfl
@[simp] theorem writeBand_agcHigh (i : Nat) (bd : Band p) : (writeBand i bd s).agcHigh = s.agcHigh := rfl
@[simp] theorem writeBand_agcHold (i : Nat) (bd : Band p) : (writeBand i bd s).agcHold = s.agcHold := rfl
@[simp] theorem writeBand_agcSwtab (i : Nat) (bd : Band p) : (writeBand i bd s).agcSwtab = s.agcSwtab := rfl
@[simp] theorem writeBand_agcHoldcnt (i : Nat) (bd : Band p) : (writeBand i bd s).agcHoldcnt = s.agcHoldcnt := rfl
@[simp] theorem writeBand_agcStep (i : Nat) (bd : Band p) : (writeBand i bd s).agcStep = s.agcStep := rfl
@[simp] theorem writeBand_agcSwgain (i : Nat) (bd : Band p) : (writeBand i bd s).agcSwgain = s.agcSwgain := rfl
@[simp] theorem writeBand_gbusLast (i : Nat) (bd : Band p) : (writeBand i bd s).gbusLast = s.gbusLast := rfl
@[simp] theorem writeBand_gainBus (i : Nat) (bd : Band p) : (writeBand i bd s).gainBus = s.gainBus := rfl
@[simp] theorem writeBand_pending (i : Nat) (bd : Band p) : (writeBand i bd s).pending = s.pending := rfl
@[simp] theorem writeBand_answers (i : Nat) (bd : Band p) : (writeBand i bd s).answers = s.answers := rfl

@[simp] theorem writeEnv_mode (e : Nat) (v : Env p) : (writeEnv e v s).mode = s.mode := rfl
@[simp] theorem writeEnv_cause (e : Nat) (v : Env p) : (writeEnv e v s).cause = s.cause := rfl
@[simp] theorem writeEnv_a (e : Nat) (v : Env p) : (writeEnv e v s).a = s.a := rfl
@[simp] theorem writeEnv_b (e : Nat) (v : Env p) : (writeEnv e v s).b = s.b := rfl
@[simp] theorem writeEnv_r (e : Nat) (v : Env p) : (writeEnv e v s).r = s.r := rfl
@[simp] theorem writeEnv_t (e : Nat) (v : Env p) : (writeEnv e v s).t = s.t := rfl
@[simp] theorem writeEnv_sampleIn (e : Nat) (v : Env p) : (writeEnv e v s).sampleIn = s.sampleIn := rfl
@[simp] theorem writeEnv_aggNorm (e : Nat) (v : Env p) : (writeEnv e v s).aggNorm = s.aggNorm := rfl
@[simp] theorem writeEnv_nbands (e : Nat) (v : Env p) : (writeEnv e v s).nbands = s.nbands := rfl
@[simp] theorem writeEnv_dcbA0 (e : Nat) (v : Env p) : (writeEnv e v s).dcbA0 = s.dcbA0 := rfl
@[simp] theorem writeEnv_dcbBias (e : Nat) (v : Env p) : (writeEnv e v s).dcbBias = s.dcbBias := rfl
@[simp] theorem writeEnv_envs (e : Nat) (v : Env p) : (writeEnv e v s).envs = s.envs.set e v := rfl
@[simp] theorem writeEnv_bands (e : Nat) (v : Env p) : (writeEnv e v s).bands = s.bands := rfl
@[simp] theorem writeEnv_agcLow (e : Nat) (v : Env p) : (writeEnv e v s).agcLow = s.agcLow := rfl
@[simp] theorem writeEnv_agcHigh (e : Nat) (v : Env p) : (writeEnv e v s).agcHigh = s.agcHigh := rfl
@[simp] theorem writeEnv_agcHold (e : Nat) (v : Env p) : (writeEnv e v s).agcHold = s.agcHold := rfl
@[simp] theorem writeEnv_agcSwtab (e : Nat) (v : Env p) : (writeEnv e v s).agcSwtab = s.agcSwtab := rfl
@[simp] theorem writeEnv_agcHoldcnt (e : Nat) (v : Env p) : (writeEnv e v s).agcHoldcnt = s.agcHoldcnt := rfl
@[simp] theorem writeEnv_agcStep (e : Nat) (v : Env p) : (writeEnv e v s).agcStep = s.agcStep := rfl
@[simp] theorem writeEnv_agcSwgain (e : Nat) (v : Env p) : (writeEnv e v s).agcSwgain = s.agcSwgain := rfl
@[simp] theorem writeEnv_gbusLast (e : Nat) (v : Env p) : (writeEnv e v s).gbusLast = s.gbusLast := rfl
@[simp] theorem writeEnv_gainBus (e : Nat) (v : Env p) : (writeEnv e v s).gainBus = s.gainBus := rfl
@[simp] theorem writeEnv_pending (e : Nat) (v : Env p) : (writeEnv e v s).pending = s.pending := rfl
@[simp] theorem writeEnv_answers (e : Nat) (v : Env p) : (writeEnv e v s).answers = s.answers := rfl

@[simp] theorem dcbUpdate_mode (x : Int) : (dcbUpdate x s).mode = s.mode := rfl
@[simp] theorem dcbUpdate_cause (x : Int) : (dcbUpdate x s).cause = s.cause := rfl
@[simp] theorem dcbUpdate_a (x : Int) : (dcbUpdate x s).a = s.a := rfl
@[simp] theorem dcbUpdate_b (x : Int) : (dcbUpdate x s).b = s.b := rfl
@[simp] theorem dcbUpdate_r (x : Int) : (dcbUpdate x s).r = s.r := rfl
@[simp] theorem dcbUpdate_t (x : Int) : (dcbUpdate x s).t = s.t := rfl
@[simp] theorem dcbUpdate_sampleIn (x : Int) : (dcbUpdate x s).sampleIn = s.sampleIn := rfl
@[simp] theorem dcbUpdate_aggNorm (x : Int) : (dcbUpdate x s).aggNorm = s.aggNorm := rfl
@[simp] theorem dcbUpdate_nbands (x : Int) : (dcbUpdate x s).nbands = s.nbands := rfl
@[simp] theorem dcbUpdate_dcbA0 (x : Int) : (dcbUpdate x s).dcbA0 = s.dcbA0 := rfl
@[simp] theorem dcbUpdate_dcbBias (x : Int) : (dcbUpdate x s).dcbBias = word p (dcbNewBias s x) := rfl
@[simp] theorem dcbUpdate_envs (x : Int) : (dcbUpdate x s).envs = s.envs := rfl
@[simp] theorem dcbUpdate_bands (x : Int) : (dcbUpdate x s).bands = s.bands := rfl
@[simp] theorem dcbUpdate_agcLow (x : Int) : (dcbUpdate x s).agcLow = s.agcLow := rfl
@[simp] theorem dcbUpdate_agcHigh (x : Int) : (dcbUpdate x s).agcHigh = s.agcHigh := rfl
@[simp] theorem dcbUpdate_agcHold (x : Int) : (dcbUpdate x s).agcHold = s.agcHold := rfl
@[simp] theorem dcbUpdate_agcSwtab (x : Int) : (dcbUpdate x s).agcSwtab = s.agcSwtab := rfl
@[simp] theorem dcbUpdate_agcHoldcnt (x : Int) : (dcbUpdate x s).agcHoldcnt = s.agcHoldcnt := rfl
@[simp] theorem dcbUpdate_agcStep (x : Int) : (dcbUpdate x s).agcStep = s.agcStep := rfl
@[simp] theorem dcbUpdate_agcSwgain (x : Int) : (dcbUpdate x s).agcSwgain = s.agcSwgain := rfl
@[simp] theorem dcbUpdate_gbusLast (x : Int) : (dcbUpdate x s).gbusLast = s.gbusLast := rfl
@[simp] theorem dcbUpdate_gainBus (x : Int) : (dcbUpdate x s).gainBus = s.gainBus := rfl
@[simp] theorem dcbUpdate_pending (x : Int) : (dcbUpdate x s).pending = s.pending := rfl
@[simp] theorem dcbUpdate_answers (x : Int) : (dcbUpdate x s).answers = s.answers := rfl

@[simp] theorem agcChange_mode (k : BitVec 3) : (agcChange k s).mode = s.mode := rfl
@[simp] theorem agcChange_cause (k : BitVec 3) : (agcChange k s).cause = s.cause := rfl
@[simp] theorem agcChange_a (k : BitVec 3) : (agcChange k s).a = s.a := rfl
@[simp] theorem agcChange_b (k : BitVec 3) : (agcChange k s).b = s.b := rfl
@[simp] theorem agcChange_r (k : BitVec 3) : (agcChange k s).r = s.r := rfl
@[simp] theorem agcChange_t (k : BitVec 3) : (agcChange k s).t = s.t := rfl
@[simp] theorem agcChange_sampleIn (k : BitVec 3) : (agcChange k s).sampleIn = s.sampleIn := rfl
@[simp] theorem agcChange_aggNorm (k : BitVec 3) : (agcChange k s).aggNorm = s.aggNorm := rfl
@[simp] theorem agcChange_nbands (k : BitVec 3) : (agcChange k s).nbands = s.nbands := rfl
@[simp] theorem agcChange_dcbA0 (k : BitVec 3) : (agcChange k s).dcbA0 = s.dcbA0 := rfl
@[simp] theorem agcChange_dcbBias (k : BitVec 3) : (agcChange k s).dcbBias = s.dcbBias := rfl
@[simp] theorem agcChange_envs (k : BitVec 3) : (agcChange k s).envs = s.envs := rfl
@[simp] theorem agcChange_bands (k : BitVec 3) : (agcChange k s).bands = s.bands := rfl
@[simp] theorem agcChange_agcLow (k : BitVec 3) : (agcChange k s).agcLow = s.agcLow := rfl
@[simp] theorem agcChange_agcHigh (k : BitVec 3) : (agcChange k s).agcHigh = s.agcHigh := rfl
@[simp] theorem agcChange_agcHold (k : BitVec 3) : (agcChange k s).agcHold = s.agcHold := rfl
@[simp] theorem agcChange_agcSwtab (k : BitVec 3) : (agcChange k s).agcSwtab = s.agcSwtab := rfl
@[simp] theorem agcChange_agcHoldcnt (k : BitVec 3) : (agcChange k s).agcHoldcnt = s.agcHoldcnt := rfl
@[simp] theorem agcChange_agcStep (k : BitVec 3) : (agcChange k s).agcStep = k := rfl
@[simp] theorem agcChange_agcSwgain (k : BitVec 3) : (agcChange k s).agcSwgain = s.agcSwtab.get k.toNat := rfl
@[simp] theorem agcChange_gbusLast (k : BitVec 3) : (agcChange k s).gbusLast = gainWord k := rfl
@[simp] theorem agcChange_gainBus (k : BitVec 3) : (agcChange k s).gainBus = s.gainBus ++ [gainWord k] := rfl
@[simp] theorem agcChange_pending (k : BitVec 3) : (agcChange k s).pending = s.pending := rfl
@[simp] theorem agcChange_answers (k : BitVec 3) : (agcChange k s).answers = s.answers := rfl

@[simp] theorem updateBands_mode (x : Int) : (updateBands x s).mode = s.mode := rfl
@[simp] theorem updateBands_cause (x : Int) : (updateBands x s).cause = s.cause := rfl
@[simp] theorem updateBands_a (x : Int) : (updateBands x s).a = s.a := rfl
@[simp] theorem updateBands_b (x : Int) : (updateBands x s).b = s.b := rfl
@[simp] theorem updateBands_r (x : Int) : (updateBands x s).r = s.r := rfl
@[simp] theorem updateBands_t (x : Int) : (updateBands x s).t = s.t := rfl
@[simp] theorem updateBands_sampleIn (x : Int) : (updateBands x s).sampleIn = s.sampleIn := rfl
@[simp] theorem updateBands_aggNorm (x : Int) : (updateBands x s).aggNorm = s.aggNorm := rfl
@[simp] theorem updateBands_nbands (x : Int) : (updateBands x s).nbands = s.nbands := rfl
@[simp] theorem updateBands_dcbA0 (x : Int) : (updateBands x s).dcbA0 = s.dcbA0 := rfl
@[simp] theorem updateBands_dcbBias (x : Int) : (updateBands x s).dcbBias = s.dcbBias := rfl
@[simp] theorem updateBands_envs (x : Int) : (updateBands x s).envs = s.envs := rfl
@[simp] theorem updateBands_bands (x : Int) : (updateBands x s).bands = s.bands.updBelow s.nbands.toNat fun _ bd => bd.fluxUpdate x := rfl
@[simp] theorem updateBands_agcLow (x : Int) : (updateBands x s).agcLow = s.agcLow := rfl
@[simp] theorem updateBands_agcHigh (x : Int) : (updateBands x s).agcHigh = s.agcHigh := rfl
@[simp] theorem updateBands_agcHold (x : Int) : (updateBands x s).agcHold = s.agcHold := rfl
@[simp] theorem updateBands_agcSwtab (x : Int) : (updateBands x s).agcSwtab = s.agcSwtab := rfl
@[simp] theorem updateBands_agcHoldcnt (x : Int) : (updateBands x s).agcHoldcnt = s.agcHoldcnt := rfl
@[simp] theorem updateBands_agcStep (x : Int) : (updateBands x s).agcStep = s.agcStep := rfl
@[simp] theorem updateBands_agcSwgain (x : Int) : (updateBands x s).agcSwgain = s.agcSwgain := rfl
@[simp] theorem updateBands_gbusLast (x : Int) : (updateBands x s).gbusLast = s.gbusLast := rfl
@[simp] theorem updateBands_gainBus (x : Int) : (updateBands x s).gainBus = s.gainBus := rfl
@[simp] theorem updateBands_pending (x : Int) : (updateBands x s).pending = s.pending := rfl
@[simp] theorem updateBands_answers (x : Int) : (updateBands x s).answers = s.answers := rfl

@[simp] theorem publishBands_mode (f : Nat → Bool) : (publishBands f s).mode = s.mode := rfl
@[simp] theorem publishBands_cause (f : Nat → Bool) : (publishBands f s).cause = s.cause := rfl
@[simp] theorem publishBands_a (f : Nat → Bool) : (publishBands f s).a = s.a := rfl
@[simp] theorem publishBands_b (f : Nat → Bool) : (publishBands f s).b = s.b := rfl
@[simp] theorem publishBands_r (f : Nat → Bool) : (publishBands f s).r = s.r := rfl
@[simp] theorem publishBands_t (f : Nat → Bool) : (publishBands f s).t = s.t := rfl
@[simp] theorem publishBands_sampleIn (f : Nat → Bool) : (publishBands f s).sampleIn = s.sampleIn := rfl
@[simp] theorem publishBands_aggNorm (f : Nat → Bool) : (publishBands f s).aggNorm = s.aggNorm := rfl
@[simp] theorem publishBands_nbands (f : Nat → Bool) : (publishBands f s).nbands = s.nbands := rfl
@[simp] theorem publishBands_dcbA0 (f : Nat → Bool) : (publishBands f s).dcbA0 = s.dcbA0 := rfl
@[simp] theorem publishBands_dcbBias (f : Nat → Bool) : (publishBands f s).dcbBias = s.dcbBias := rfl
@[simp] theorem publishBands_envs (f : Nat → Bool) : (publishBands f s).envs = s.envs := rfl
@[simp] theorem publishBands_bands (f : Nat → Bool) : (publishBands f s).bands = s.bands.updBelow s.nbands.toNat fun i bd => if f i then bd.publish s.aggNorm else bd := rfl
@[simp] theorem publishBands_agcLow (f : Nat → Bool) : (publishBands f s).agcLow = s.agcLow := rfl
@[simp] theorem publishBands_agcHigh (f : Nat → Bool) : (publishBands f s).agcHigh = s.agcHigh := rfl
@[simp] theorem publishBands_agcHold (f : Nat → Bool) : (publishBands f s).agcHold = s.agcHold := rfl
@[simp] theorem publishBands_agcSwtab (f : Nat → Bool) : (publishBands f s).agcSwtab = s.agcSwtab := rfl
@[simp] theorem publishBands_agcHoldcnt (f : Nat → Bool) : (publishBands f s).agcHoldcnt = s.agcHoldcnt := rfl
@[simp] theorem publishBands_agcStep (f : Nat → Bool) : (publishBands f s).agcStep = s.agcStep := rfl
@[simp] theorem publishBands_agcSwgain (f : Nat → Bool) : (publishBands f s).agcSwgain = s.agcSwgain := rfl
@[simp] theorem publishBands_gbusLast (f : Nat → Bool) : (publishBands f s).gbusLast = s.gbusLast := rfl
@[simp] theorem publishBands_gainBus (f : Nat → Bool) : (publishBands f s).gainBus = s.gainBus := rfl
@[simp] theorem publishBands_pending (f : Nat → Bool) : (publishBands f s).pending = s.pending := rfl
@[simp] theorem publishBands_answers (f : Nat → Bool) : (publishBands f s).answers = s.answers := rfl

@[simp] theorem construct_mode : (construct s).mode = .running := rfl
@[simp] theorem construct_cause : (construct s).cause = s.cause := rfl
@[simp] theorem construct_a : (construct s).a = s.a := rfl
@[simp] theorem construct_b : (construct s).b = s.b := rfl
@[simp] theorem construct_r : (construct s).r = s.r := rfl
@[simp] theorem construct_t : (construct s).t = s.t := rfl
@[simp] theorem construct_sampleIn : (construct s).sampleIn = s.sampleIn := rfl
@[simp] theorem construct_aggNorm : (construct s).aggNorm = s.aggNorm := rfl
@[simp] theorem construct_nbands : (construct s).nbands = s.nbands := rfl
@[simp] theorem construct_dcbA0 : (construct s).dcbA0 = s.dcbA0 := rfl
@[simp] theorem construct_dcbBias : (construct s).dcbBias = 0 := rfl
@[simp] theorem construct_envs : (construct s).envs = s.envs.updBelow p.NE fun _ ev => { ev with val := 0 } := rfl
@[simp] theorem construct_bands : (construct s).bands = s.bands.updBelow s.nbands.toNat fun _ bd => bd.construct := rfl
@[simp] theorem construct_agcLow : (construct s).agcLow = s.agcLow := rfl
@[simp] theorem construct_agcHigh : (construct s).agcHigh = s.agcHigh := rfl
@[simp] theorem construct_agcHold : (construct s).agcHold = s.agcHold := rfl
@[simp] theorem construct_agcSwtab : (construct s).agcSwtab = s.agcSwtab := rfl
@[simp] theorem construct_agcHoldcnt : (construct s).agcHoldcnt = 0 := rfl
@[simp] theorem construct_agcStep : (construct s).agcStep = 0 := rfl
@[simp] theorem construct_agcSwgain : (construct s).agcSwgain = s.agcSwtab.get 0 := rfl
@[simp] theorem construct_gbusLast : (construct s).gbusLast = s.gbusLast := rfl
@[simp] theorem construct_gainBus : (construct s).gainBus = s.gainBus := rfl
@[simp] theorem construct_pending : (construct s).pending = s.pending := rfl
@[simp] theorem construct_answers : (construct s).answers = s.answers := rfl

@[simp] theorem answer_mode (prt : Port) (ad : Addr) (d : WordOf p) : (answer prt ad d s).mode = s.mode := rfl
@[simp] theorem answer_cause (prt : Port) (ad : Addr) (d : WordOf p) : (answer prt ad d s).cause = s.cause := rfl
@[simp] theorem answer_a (prt : Port) (ad : Addr) (d : WordOf p) : (answer prt ad d s).a = s.a := rfl
@[simp] theorem answer_b (prt : Port) (ad : Addr) (d : WordOf p) : (answer prt ad d s).b = s.b := rfl
@[simp] theorem answer_r (prt : Port) (ad : Addr) (d : WordOf p) : (answer prt ad d s).r = s.r := rfl
@[simp] theorem answer_t (prt : Port) (ad : Addr) (d : WordOf p) : (answer prt ad d s).t = s.t := rfl
@[simp] theorem answer_sampleIn (prt : Port) (ad : Addr) (d : WordOf p) : (answer prt ad d s).sampleIn = s.sampleIn := rfl
@[simp] theorem answer_aggNorm (prt : Port) (ad : Addr) (d : WordOf p) : (answer prt ad d s).aggNorm = s.aggNorm := rfl
@[simp] theorem answer_nbands (prt : Port) (ad : Addr) (d : WordOf p) : (answer prt ad d s).nbands = s.nbands := rfl
@[simp] theorem answer_dcbA0 (prt : Port) (ad : Addr) (d : WordOf p) : (answer prt ad d s).dcbA0 = s.dcbA0 := rfl
@[simp] theorem answer_dcbBias (prt : Port) (ad : Addr) (d : WordOf p) : (answer prt ad d s).dcbBias = s.dcbBias := rfl
@[simp] theorem answer_envs (prt : Port) (ad : Addr) (d : WordOf p) : (answer prt ad d s).envs = s.envs := rfl
@[simp] theorem answer_bands (prt : Port) (ad : Addr) (d : WordOf p) : (answer prt ad d s).bands = s.bands := rfl
@[simp] theorem answer_agcLow (prt : Port) (ad : Addr) (d : WordOf p) : (answer prt ad d s).agcLow = s.agcLow := rfl
@[simp] theorem answer_agcHigh (prt : Port) (ad : Addr) (d : WordOf p) : (answer prt ad d s).agcHigh = s.agcHigh := rfl
@[simp] theorem answer_agcHold (prt : Port) (ad : Addr) (d : WordOf p) : (answer prt ad d s).agcHold = s.agcHold := rfl
@[simp] theorem answer_agcSwtab (prt : Port) (ad : Addr) (d : WordOf p) : (answer prt ad d s).agcSwtab = s.agcSwtab := rfl
@[simp] theorem answer_agcHoldcnt (prt : Port) (ad : Addr) (d : WordOf p) : (answer prt ad d s).agcHoldcnt = s.agcHoldcnt := rfl
@[simp] theorem answer_agcStep (prt : Port) (ad : Addr) (d : WordOf p) : (answer prt ad d s).agcStep = s.agcStep := rfl
@[simp] theorem answer_agcSwgain (prt : Port) (ad : Addr) (d : WordOf p) : (answer prt ad d s).agcSwgain = s.agcSwgain := rfl
@[simp] theorem answer_gbusLast (prt : Port) (ad : Addr) (d : WordOf p) : (answer prt ad d s).gbusLast = s.gbusLast := rfl
@[simp] theorem answer_gainBus (prt : Port) (ad : Addr) (d : WordOf p) : (answer prt ad d s).gainBus = s.gainBus := rfl
@[simp] theorem answer_pending (prt : Port) (ad : Addr) (d : WordOf p) : (answer prt ad d s).pending = s.pending := rfl
@[simp] theorem answer_answers (prt : Port) (ad : Addr) (d : WordOf p) : (answer prt ad d s).answers = s.answers ++ [{ port := prt, addr := ad, data := d }] := rfl

end

section
variable {p : Build} (bd : Band p)

@[simp] theorem Band.gzUpdate_blockLen (j : Nat) (x : Int) : (bd.gzUpdate j x).blockLen = bd.blockLen := rfl
@[simp] theorem Band.gzUpdate_size (j : Nat) (x : Int) : (bd.gzUpdate j x).size = bd.size := rfl
@[simp] theorem Band.gzUpdate_magScaler (j : Nat) (x : Int) : (bd.gzUpdate j x).magScaler = bd.magScaler := rfl
@[simp] theorem Band.gzUpdate_sizeScaler (j : Nat) (x : Int) : (bd.gzUpdate j x).sizeScaler = bd.sizeScaler := rfl
@[simp] theorem Band.gzUpdate_bins (j : Nat) (x : Int) : (bd.gzUpdate j x).bins = bd.bins.set j ((bd.bins.get j).gzUpdate bd.blockLen bd.magScaler x) := rfl
@[simp] theorem Band.gzUpdate_bankRdy (j : Nat) (x : Int) : (bd.gzUpdate j x).bankRdy = bd.bankRdy := rfl
@[simp] theorem Band.gzUpdate_fluxHist (j : Nat) (x : Int) : (bd.gzUpdate j x).fluxHist = bd.fluxHist := rfl
@[simp] theorem Band.gzUpdate_wrIdx (j : Nat) (x : Int) : (bd.gzUpdate j x).wrIdx = bd.wrIdx := rfl
@[simp] theorem Band.gzUpdate_outMag (j : Nat) (x : Int) : (bd.gzUpdate j x).outMag = bd.outMag := rfl
@[simp] theorem Band.gzUpdate_outOnset (j : Nat) (x : Int) : (bd.gzUpdate j x).outOnset = bd.outOnset := rfl
@[simp] theorem Band.gzUpdate_outReady (j : Nat) (x : Int) : (bd.gzUpdate j x).outReady = bd.outReady := rfl
@[simp] theorem Band.gzUpdate_outOverrun (j : Nat) (x : Int) : (bd.gzUpdate j x).outOverrun = bd.outOverrun := rfl
@[simp] theorem Band.gzUpdate_tkMag (j : Nat) (x : Int) : (bd.gzUpdate j x).tkMag = bd.tkMag := rfl
@[simp] theorem Band.gzUpdate_tkOnset (j : Nat) (x : Int) : (bd.gzUpdate j x).tkOnset = bd.tkOnset := rfl
@[simp] theorem Band.gzUpdate_tkReady (j : Nat) (x : Int) : (bd.gzUpdate j x).tkReady = bd.tkReady := rfl

@[simp] theorem Band.bankUpdate_blockLen (x : Int) : (bd.bankUpdate x).blockLen = bd.blockLen := rfl
@[simp] theorem Band.bankUpdate_size (x : Int) : (bd.bankUpdate x).size = bd.size := rfl
@[simp] theorem Band.bankUpdate_magScaler (x : Int) : (bd.bankUpdate x).magScaler = bd.magScaler := rfl
@[simp] theorem Band.bankUpdate_sizeScaler (x : Int) : (bd.bankUpdate x).sizeScaler = bd.sizeScaler := rfl
@[simp] theorem Band.bankUpdate_bins (x : Int) : (bd.bankUpdate x).bins = bd.bins.updBelow bd.size.toNat fun _ bn => bn.gzUpdate bd.blockLen bd.magScaler x := rfl
@[simp] theorem Band.bankUpdate_bankRdy (x : Int) : (bd.bankUpdate x).bankRdy = bd.bankReady := rfl
@[simp] theorem Band.bankUpdate_fluxHist (x : Int) : (bd.bankUpdate x).fluxHist = bd.fluxHist := rfl
@[simp] theorem Band.bankUpdate_wrIdx (x : Int) : (bd.bankUpdate x).wrIdx = bd.wrIdx := rfl
@[simp] theorem Band.bankUpdate_outMag (x : Int) : (bd.bankUpdate x).outMag = bd.outMag := rfl
@[simp] theorem Band.bankUpdate_outOnset (x : Int) : (bd.bankUpdate x).outOnset = bd.outOnset := rfl
@[simp] theorem Band.bankUpdate_outReady (x : Int) : (bd.bankUpdate x).outReady = bd.outReady := rfl
@[simp] theorem Band.bankUpdate_outOverrun (x : Int) : (bd.bankUpdate x).outOverrun = bd.outOverrun := rfl
@[simp] theorem Band.bankUpdate_tkMag (x : Int) : (bd.bankUpdate x).tkMag = bd.tkMag := rfl
@[simp] theorem Band.bankUpdate_tkOnset (x : Int) : (bd.bankUpdate x).tkOnset = bd.tkOnset := rfl
@[simp] theorem Band.bankUpdate_tkReady (x : Int) : (bd.bankUpdate x).tkReady = bd.tkReady := rfl

@[simp] theorem Band.fluxBlock_blockLen : (bd.fluxBlock).blockLen = bd.blockLen := rfl
@[simp] theorem Band.fluxBlock_size : (bd.fluxBlock).size = bd.size := rfl
@[simp] theorem Band.fluxBlock_magScaler : (bd.fluxBlock).magScaler = bd.magScaler := rfl
@[simp] theorem Band.fluxBlock_sizeScaler : (bd.fluxBlock).sizeScaler = bd.sizeScaler := rfl
@[simp] theorem Band.fluxBlock_bins : (bd.fluxBlock).bins = bd.bins.updBelow bd.size.toNat fun _ bn => { bn with prevMag := bn.mag } := rfl
@[simp] theorem Band.fluxBlock_bankRdy : (bd.fluxBlock).bankRdy = bd.bankRdy := rfl
@[simp] theorem Band.fluxBlock_fluxHist : (bd.fluxBlock).fluxHist = bd.fluxHist.set bd.nextWrIdx (word p bd.flux) := rfl
@[simp] theorem Band.fluxBlock_wrIdx : (bd.fluxBlock).wrIdx = BitVec.ofNat p.W bd.nextWrIdx := rfl
@[simp] theorem Band.fluxBlock_outMag : (bd.fluxBlock).outMag = bd.outMag := rfl
@[simp] theorem Band.fluxBlock_outOnset : (bd.fluxBlock).outOnset = bd.outOnset := rfl
@[simp] theorem Band.fluxBlock_outReady : (bd.fluxBlock).outReady = bd.outReady := rfl
@[simp] theorem Band.fluxBlock_outOverrun : (bd.fluxBlock).outOverrun = bd.outOverrun := rfl
@[simp] theorem Band.fluxBlock_tkMag : (bd.fluxBlock).tkMag = bd.tkMag := rfl
@[simp] theorem Band.fluxBlock_tkOnset : (bd.fluxBlock).tkOnset = bd.tkOnset := rfl
@[simp] theorem Band.fluxBlock_tkReady : (bd.fluxBlock).tkReady = bd.tkReady := rfl

@[simp] theorem Band.publish_blockLen (n : Bool) : (bd.publish n).blockLen = bd.blockLen := rfl
@[simp] theorem Band.publish_size (n : Bool) : (bd.publish n).size = bd.size := rfl
@[simp] theorem Band.publish_magScaler (n : Bool) : (bd.publish n).magScaler = bd.magScaler := rfl
@[simp] theorem Band.publish_sizeScaler (n : Bool) : (bd.publish n).sizeScaler = bd.sizeScaler := rfl
@[simp] theorem Band.publish_bins (n : Bool) : (bd.publish n).bins = bd.bins := rfl
@[simp] theorem Band.publish_bankRdy (n : Bool) : (bd.publish n).bankRdy = bd.bankRdy := rfl
@[simp] theorem Band.publish_fluxHist (n : Bool) : (bd.publish n).fluxHist = bd.fluxHist := rfl
@[simp] theorem Band.publish_wrIdx (n : Bool) : (bd.publish n).wrIdx = bd.wrIdx := rfl
@[simp] theorem Band.publish_outMag (n : Bool) : (bd.publish n).outMag = word p (bd.bankAgg n) := rfl
@[simp] theorem Band.publish_outOnset (n : Bool) : (bd.publish n).outOnset = bd.onset := rfl
@[simp] theorem Band.publish_outReady (n : Bool) : (bd.publish n).outReady = true := rfl
@[simp] theorem Band.publish_outOverrun (n : Bool) : (bd.publish n).outOverrun = bd.overrun := rfl
@[simp] theorem Band.publish_tkMag (n : Bool) : (bd.publish n).tkMag = bd.tkMag := rfl
@[simp] theorem Band.publish_tkOnset (n : Bool) : (bd.publish n).tkOnset = bd.tkOnset := rfl
@[simp] theorem Band.publish_tkReady (n : Bool) : (bd.publish n).tkReady = bd.tkReady := rfl

@[simp] theorem Band.take_blockLen : (bd.take).blockLen = bd.blockLen := rfl
@[simp] theorem Band.take_size : (bd.take).size = bd.size := rfl
@[simp] theorem Band.take_magScaler : (bd.take).magScaler = bd.magScaler := rfl
@[simp] theorem Band.take_sizeScaler : (bd.take).sizeScaler = bd.sizeScaler := rfl
@[simp] theorem Band.take_bins : (bd.take).bins = bd.bins := rfl
@[simp] theorem Band.take_bankRdy : (bd.take).bankRdy = bd.bankRdy := rfl
@[simp] theorem Band.take_fluxHist : (bd.take).fluxHist = bd.fluxHist := rfl
@[simp] theorem Band.take_wrIdx : (bd.take).wrIdx = bd.wrIdx := rfl
@[simp] theorem Band.take_outMag : (bd.take).outMag = bd.outMag := rfl
@[simp] theorem Band.take_outOnset : (bd.take).outOnset = bd.outOnset := rfl
@[simp] theorem Band.take_outReady : (bd.take).outReady = false := rfl
@[simp] theorem Band.take_outOverrun : (bd.take).outOverrun = bd.outOverrun := rfl
@[simp] theorem Band.take_tkMag : (bd.take).tkMag = bd.outMag := rfl
@[simp] theorem Band.take_tkOnset : (bd.take).tkOnset = bd.outOnset := rfl
@[simp] theorem Band.take_tkReady : (bd.take).tkReady = bd.outReady := rfl

@[simp] theorem Band.construct_blockLen : (bd.construct).blockLen = bd.blockLen := by
  obtain ⟨n, _⟩ := bd
  exact @rfl _ n
@[simp] theorem Band.construct_size : (bd.construct).size = bd.size := by
  obtain ⟨_, n, _⟩ := bd
  exact @rfl _ n
@[simp] theorem Band.construct_magScaler : (bd.construct).magScaler = scalerOf p bd.blockLen := rfl
@[simp] theorem Band.construct_sizeScaler : (bd.construct).sizeScaler = scalerOf p bd.size := rfl
@[simp] theorem Band.construct_bins : (bd.construct).bins = bd.bins.updBelow p.MAXBINS fun _ bn => { bn with q0 := 0, q1 := 0, q2 := 0, blkPos := 0, mag := 0, prevMag := 0 } := rfl
@[simp] theorem Band.construct_bankRdy : (bd.construct).bankRdy = false := rfl
@[simp] theorem Band.construct_fluxHist : (bd.construct).fluxHist = bd.fluxHist.updBelow p.WIN fun _ _ => 0 := rfl
@[simp] theorem Band.construct_wrIdx : (bd.construct).wrIdx = 0 := rfl
@[simp] theorem Band.construct_outMag : (bd.construct).outMag = 0 := rfl
@[simp] theorem Band.construct_outOnset : (bd.construct).outOnset = false := rfl
@[simp] theorem Band.construct_outReady : (bd.construct).outReady = false := rfl
@[simp] theorem Band.construct_outOverrun : (bd.construct).outOverrun = 0 := rfl
@[simp] theorem Band.construct_tkMag : (bd.construct).tkMag = 0 := rfl
@[simp] theorem Band.construct_tkOnset : (bd.construct).tkOnset = false := rfl
@[simp] theorem Band.construct_tkReady : (bd.construct).tkReady = false := rfl

end

section
variable {p : Build} (s : StateOf p)

/-- A band reads as it was written last. -/
@[simp] theorem band_writeBand_same (b : Nat) (bd : Band p) : band (writeBand b bd s) b = bd :=
  Table.get_set_same _ _ _

theorem band_writeBand (b b' : Nat) (bd : Band p) :
    band (writeBand b bd s) b' = if b' = b then bd else band s b' :=
  Table.get_set _ _ _ _

/-- An envelope reads as it was written last. -/
@[simp] theorem env_writeEnv_same (e : Nat) (v : Env p) : env (writeEnv e v s) e = v :=
  Table.get_set_same _ _ _

theorem env_writeEnv (e e' : Nat) (v : Env p) : env (writeEnv e v s) e' = if e' = e then v else env s e' :=
  Table.get_set _ _ _ _

theorem bin_eq (b j : Nat) : bin s b j = (band s b).bins.get j := rfl

end

/-- A step over the bands of a state reads only the bands table. -/
theorem band_congr {p : Build} {s t : StateOf p} (h : t.bands = s.bands) (b : Nat) : band t b = band s b := by
  unfold band; rw [h]

theorem bin_congr {p : Build} {s t : StateOf p} (h : t.bands = s.bands) (b j : Nat) : bin t b j = bin s b j := by
  unfold bin; rw [h]

theorem env_congr {p : Build} {s t : StateOf p} (h : t.envs = s.envs) (e : Nat) : env t e = env s e := by
  unfold env; rw [h]

end Sys2Proof.Machine
end

