-- ==== Sys2Proof/Laws/Ops.lean ====
section
/-!
SUPPORT. What the shared operations can do, said once each: recording an error, the admission of a command, the
controller's tick, a register write, a host operation and a step.
-/

namespace Sys2Proof.Machine

variable {p : Build}

/-! ### Recording an error (R232) -/

/-- Recording an error changes at most the cause. -/
theorem raiseErr_eq (c : Cause) (s : StateOf p) :
    raiseErr c s = { s with cause := if s.cause = .none then c else s.cause } := by
  unfold raiseErr
  split <;> rfl

/-- The first cause since reset stays. -/
theorem raiseErr_of_cause {c : Cause} {s : StateOf p} (h : s.cause ≠ .none) : raiseErr c s = s := by
  unfold raiseErr; rw [if_neg h]

/-! ### The admission of a command (R90, R95, R96) -/

/-- A command's outcome is its effect, an index error or a mode error, and a next state in each case. -/
theorem command_cases {admits : Mode → Bool} {ok : Bool} {f : StateOf p → StateOf p} {s t : StateOf p}
    (h : command admits ok f s = .next t) :
    (admits s.mode = true ∧ ok = true ∧ t = f s) ∨
      (admits s.mode = true ∧ ok = false ∧ t = raiseErr .cmdIndex s) ∨
      (admits s.mode = false ∧ t = raiseErr .cmdMode s) := by
  unfold command at h
  cases h1 : admits s.mode <;> cases ok <;> simp_all

theorem command_effect {admits : Mode → Bool} {f : StateOf p → StateOf p} {s : StateOf p} (h : admits s.mode = true) :
    command admits true f s = .next (f s) := by
  unfold command; simp [h]

theorem command_index {admits : Mode → Bool} {f : StateOf p → StateOf p} {s : StateOf p} (h : admits s.mode = true) :
    command admits false f s = .next (raiseErr .cmdIndex s) := by
  unfold command; simp [h]

theorem command_mode {admits : Mode → Bool} {ok : Bool} {f : StateOf p → StateOf p} {s : StateOf p}
    (h : admits s.mode = false) : command admits ok f s = .next (raiseErr .cmdMode s) := by
  unfold command; simp [h]

/-! ### The controller's tick (R191) -/

/-- A tick counts down, reloads the hold-off and changes nothing, or reloads it and moves the gain by one step. -/
theorem agcTick_cases (s : StateOf p) :
    (0 < s.agcHoldcnt.toNat ∧ agcTick s = { s with agcHoldcnt := s.agcHoldcnt - 1 }) ∨
      (s.agcHoldcnt.toNat = 0 ∧ agcNewStep s = none ∧ agcTick s = { s with agcHoldcnt := s.agcHold }) ∨
      ∃ k, s.agcHoldcnt.toNat = 0 ∧ agcNewStep s = some k ∧
        agcTick s = agcChange k { s with agcHoldcnt := s.agcHold } := by
  unfold agcTick
  split
  next h => exact .inl ⟨h, rfl⟩
  next h =>
    have h0 : s.agcHoldcnt.toNat = 0 := by omega
    cases hk : agcNewStep s with
    | none => exact .inr (.inl ⟨h0, rfl, rfl⟩)
    | some k => exact .inr (.inr ⟨k, h0, rfl, rfl⟩)

/-- The step an evaluation moves to is one above or one below. -/
theorem agcNewStep_cases {s : StateOf p} {k : BitVec 3} (h : agcNewStep s = some k) :
    ((env s 0).val.toInt < s.agcLow.toInt ∧ s.agcStep ≠ 7 ∧ k = s.agcStep + 1) ∨
      (s.agcHigh.toInt < (env s 0).val.toInt ∧ s.agcStep ≠ 0 ∧ k = s.agcStep - 1) := by
  unfold agcNewStep at h
  split at h
  next h1 => exact .inl ⟨h1.1, h1.2, (Option.some.inj h).symm⟩
  next =>
    split at h
    next h1 => exact .inr ⟨h1.1, h1.2, (Option.some.inj h).symm⟩
    next => exact absurd h (by simp)

/-- A tick leaves every register but the controller's own and the gain bus. -/
theorem agcTick_frame (s : StateOf p) :
    ∃ cnt step gain last bus, agcTick s =
      { s with agcHoldcnt := cnt, agcStep := step, agcSwgain := gain, gbusLast := last, gainBus := bus } := by
  rcases agcTick_cases s with ⟨_, h⟩ | ⟨_, _, h⟩ | ⟨k, _, _, h⟩
  · exact ⟨_, s.agcStep, s.agcSwgain, s.gbusLast, s.gainBus, h⟩
  · exact ⟨_, s.agcStep, s.agcSwgain, s.gbusLast, s.gainBus, h⟩
  · exact ⟨_, _, _, _, _, h⟩

/-! ### Register writes and host operations (R63, R65) -/

/-- A stored word changes an operand, a configuration register of the block, an envelope or a band, and nothing else. -/
theorem storeReg_frame (reg : Reg) (v : WordOf p) (s : StateOf p) :
    ∃ a b raw norm nbands a0 envs bands low high hold tab, storeReg reg v s =
      { s with a := a, b := b, sampleIn := raw, aggNorm := norm, nbands := nbands, dcbA0 := a0, envs := envs, bands := bands,
               agcLow := low, agcHigh := high, agcHold := hold, agcSwtab := tab } := by
  cases reg <;> exact ⟨_, _, _, _, _, _, _, _, _, _, _, _, rfl⟩

/-- A register that neither is an operand nor configures the block stores nothing. -/
theorem storeReg_readOnly {reg : Reg} (h : reg.regClass = .readOnly) (v : WordOf p) (s : StateOf p) : storeReg reg v s = s := by
  cases reg <;> first | rfl | exact absurd h (by simp [Reg.regClass])

/-- The reset event leaves the build's state after reset, with what the host has still to do and what it was answered. -/
theorem resetEvent_eq (s : StateOf p) :
    resetEvent s = { resetState p with pending := s.pending, answers := s.answers } := rfl

/-- A register write executes a command, stores a word, or records an error. -/
theorem regWrite_cases (run : Commands p) (port : Port) (addr : Addr) (v : WordOf p) (s : StateOf p) :
    (∃ r q reg, decodeAddr p addr = some r ∧ r.regClass = .command q reg ∧ port = q ∧
        regWrite run port addr v s = issue run reg v s) ∨
      (∃ r, decodeAddr p addr = some r ∧ port = .p ∧
        (r.regClass = .operand ∨ (r.regClass = .configuration ∧ s.mode = .unconfigured)) ∧
        regWrite run port addr v s = .next (storeReg r v s)) ∨
      (decodeAddr p addr = none ∧ regWrite run port addr v s = .next (raiseErr .busAddr s)) ∨
      ((decodeAddr p addr).isSome ∧ regWrite run port addr v s = .next (raiseErr .busAccess s)) := by
  unfold regWrite
  cases h : decodeAddr p addr with
  | none => exact .inr (.inr (.inl ⟨rfl, rfl⟩))
  | some r =>
    cases hc : r.regClass with
    | command q reg =>
      by_cases hp : port = q
      · exact .inl ⟨r, q, reg, rfl, hc, hp, by simp [hc, hp]⟩
      · exact .inr (.inr (.inr ⟨rfl, by simp [hc, hp]⟩))
    | operand =>
      by_cases hp : port = .p
      · exact .inr (.inl ⟨r, rfl, hp, .inl hc, by simp [hc, hp]⟩)
      · exact .inr (.inr (.inr ⟨rfl, by simp [hc, hp]⟩))
    | configuration =>
      by_cases hp : port = .p ∧ s.mode = .unconfigured
      · exact .inr (.inl ⟨r, rfl, hp.1, .inr ⟨hc, hp.2⟩, by simp [hc, hp]⟩)
      · exact .inr (.inr (.inr ⟨rfl, by simp [hc, hp]⟩))
    | readOnly => exact .inr (.inr (.inr ⟨rfl, by simp [hc]⟩))

/-- A word written to a command register runs the command it decodes to, or records `CMD_ILLEGAL`. -/
theorem issue_cases (run : Commands p) (reg : CmdReg) (v : WordOf p) (s : StateOf p) :
    (∃ i, decodeBusWord reg v = some i ∧ issue run reg v s = run i s) ∨
      (decodeBusWord reg v = none ∧ issue run reg v s = .next (raiseErr .cmdIllegal s)) := by
  unfold issue
  cases h : decodeBusWord reg v with
  | none => exact .inr ⟨rfl, rfl⟩
  | some i => exact .inl ⟨i, rfl, rfl⟩

/-- The command registers are `CMD` and `CCMD`, each of its own port. -/
theorem regClass_command {r : Reg} {q : Port} {reg : CmdReg} (h : r.regClass = .command q reg) :
    (r = .cmd ∧ q = .p ∧ reg = .cmd) ∨ (r = .ccmd ∧ q = .c ∧ reg = .ccmd) := by
  cases r <;> simp_all [Reg.regClass]

/-- A bus word of the default build is a command word: a word is 32 bits wide. -/
theorem decodeBusWord_eq (reg : CmdReg) (v : Word) : decodeBusWord reg v = decode reg v := by
  unfold decodeBusWord
  have h : v.toNat < 2 ^ 32 := v.isLt
  rw [if_pos (by omega)]
  exact congrArg (decode reg) (BitVec.setWidth_eq v)

/-- What a step does, in all and in any build: nothing while no operation is to come, and else the next one. -/
theorem hostStep_cases (run : Commands p) (s : StateOf p) :
    (s.pending = [] ∧ hostStep run s = .next s) ∨
      (∃ port addr rest, s.pending = .read port addr :: rest ∧
        hostStep run s = .next (answer port addr (regReadValue addr { s with pending := rest })
          (regReadState addr { s with pending := rest }))) ∨
      (∃ port addr v rest, s.pending = .write port addr v :: rest ∧
        hostStep run s = regWrite run port addr v { s with pending := rest }) ∨
      ∃ rest, s.pending = .reset :: rest ∧ hostStep run s = .next (resetEvent { s with pending := rest }) := by
  unfold hostStep
  cases h : s.pending with
  | nil => exact .inl ⟨rfl, rfl⟩
  | cons op rest =>
    cases op with
    | read port addr => exact .inr (.inl ⟨port, addr, rest, rfl, rfl⟩)
    | write port addr v => exact .inr (.inr (.inl ⟨port, addr, v, rest, rfl, rfl⟩))
    | reset => exact .inr (.inr (.inr ⟨rest, rfl, rfl⟩))

/-- What a step of the machine behind the host's interface does, in all. -/
theorem step_cases (s : State) :
    (s.pending = [] ∧ step s = .next s) ∨
      (∃ port addr rest, s.pending = .read port addr :: rest ∧
        step s = .next (answer port addr (regReadValue addr { s with pending := rest })
          (regReadState addr { s with pending := rest }))) ∨
      (∃ port addr v rest, s.pending = .write port addr v :: rest ∧
        step s = regWrite exec port addr v { s with pending := rest }) ∨
      ∃ rest, s.pending = .reset :: rest ∧ step s = .next (resetEvent { s with pending := rest }) :=
  hostStep_cases exec s

/-- The commands of the default build are the host's `exec`, its step is `step`, its reset state `State.reset`. -/
theorem execAt_build : execAt (p := Config.build) = exec := by
  funext i s
  cases i <;> rfl

theorem stepAt_build : stepAt (p := Config.build) = step := by
  funext s
  unfold stepAt step
  rw [execAt_build]

theorem coreAt_build : coreAt Config.build = Sys2Proof.core := by
  unfold coreAt Sys2Proof.core
  rw [stepAt_build]
  rfl

end Sys2Proof.Machine
end

