-- ==== Sys2Proof/Laws/Band.lean ====
section
/-!
SUPPORT. What the operations on a bin and a band can do, said once each: the bin update, the bank update, the flux update, the
sums over a bank, `INIT` and the five steps of `SAMPLE`.
-/

namespace Sys2Proof.Machine

variable {p : Build}

/-! ### A bin (R161) -/

/-- A bin update completes a block, and then zeroes the recursion and renews the magnitude, or advances the recursion. -/
theorem Bin.gzUpdate_cases (n scaler : WordOf p) (x : Int) (bn : Bin p) :
    (bn.blkPos.toNat + 1 = n.toNat ∧ bn.gzUpdate n scaler x =
        { coef := bn.coef, q0 := 0, q1 := 0, q2 := 0, blkPos := 0
          mag := word p (goertzelMag p (bn.newQ0 x) bn.q1.toInt bn.coef.toInt scaler.toInt)
          prevMag := bn.prevMag }) ∨
      (bn.blkPos.toNat + 1 ≠ n.toNat ∧ bn.gzUpdate n scaler x =
        { coef := bn.coef, q0 := word p (bn.newQ0 x), q1 := word p (bn.newQ0 x), q2 := bn.q1
          blkPos := bn.blkPos + 1, mag := bn.mag, prevMag := bn.prevMag }) := by
  unfold Bin.gzUpdate Bin.completes
  by_cases h : bn.blkPos.toNat + 1 = n.toNat
  · exact .inl ⟨h, by rw [if_pos (decide_eq_true h)]⟩
  · exact .inr ⟨h, by rw [if_neg (by simpa only [decide_eq_true_eq] using h)]⟩

@[simp] theorem Bin.gzUpdate_coef (n scaler : WordOf p) (x : Int) (bn : Bin p) :
    (bn.gzUpdate n scaler x).coef = bn.coef := by
  rcases Bin.gzUpdate_cases n scaler x bn with ⟨_, h⟩ | ⟨_, h⟩ <;> rw [h]

@[simp] theorem Bin.gzUpdate_prevMag (n scaler : WordOf p) (x : Int) (bn : Bin p) :
    (bn.gzUpdate n scaler x).prevMag = bn.prevMag := by
  rcases Bin.gzUpdate_cases n scaler x bn with ⟨_, h⟩ | ⟨_, h⟩ <;> rw [h]

theorem newQ0_fits (bn : Bin p) (x : Int) : Fits p (bn.newQ0 x) := fxadd_fits _ _

/-- A magnitude times a non-negative scaler fits a word and is not negative. -/
theorem goertzelMag_nonneg (q1 q2 c : Int) {scaler : Int} (h : 0 ≤ scaler) :
    0 ≤ goertzelMag p q1 q2 c scaler ∧ Fits p (goertzelMag p q1 q2 c scaler) :=
  ⟨fxmul_nonneg (fxsqrt_nonneg _) h, fxmul_fits _ _⟩

/-! ### A bank (R165, R181) -/

/-- The bins of a band after a bank update. -/
theorem Band.get_bankUpdate (bd : Band p) (x : Int) (j : Nat) :
    (bd.bankUpdate x).bins.get j =
      if j < bd.size.toNat then (bd.bins.get j).gzUpdate bd.blockLen bd.magScaler x else bd.bins.get j := by
  rw [Band.bankUpdate_bins, Table.get_updBelow]

/-- The bins of a band after the flux of a block is taken. -/
theorem Band.get_fluxBlock (bd : Band p) (j : Nat) :
    bd.fluxBlock.bins.get j =
      if j < bd.size.toNat then { bd.bins.get j with prevMag := (bd.bins.get j).mag } else bd.bins.get j := by
  rw [Band.fluxBlock_bins, Table.get_updBelow]

/-- A flux update is a bank update, followed by the flux of the block when the block is complete. -/
theorem Band.fluxUpdate_cases (bd : Band p) (x : Int) :
    (bd.bankReady = true ∧ bd.fluxUpdate x = (bd.bankUpdate x).fluxBlock) ∨
      (bd.bankReady = false ∧ bd.fluxUpdate x = bd.bankUpdate x) := by
  unfold Band.fluxUpdate
  cases bd.bankReady
  · exact .inr ⟨rfl, rfl⟩
  · exact .inl ⟨rfl, rfl⟩

/-- A flux update leaves a band's configuration, its scalers and its published registers. -/
theorem Band.fluxUpdate_frame (bd : Band p) (x : Int) :
    (bd.fluxUpdate x).blockLen = bd.blockLen ∧ (bd.fluxUpdate x).size = bd.size ∧
      (bd.fluxUpdate x).magScaler = bd.magScaler ∧ (bd.fluxUpdate x).sizeScaler = bd.sizeScaler ∧
      (bd.fluxUpdate x).outMag = bd.outMag ∧ (bd.fluxUpdate x).outOnset = bd.outOnset ∧
      (bd.fluxUpdate x).outReady = bd.outReady ∧ (bd.fluxUpdate x).outOverrun = bd.outOverrun ∧
      (bd.fluxUpdate x).tkMag = bd.tkMag ∧ (bd.fluxUpdate x).tkOnset = bd.tkOnset ∧
      (bd.fluxUpdate x).tkReady = bd.tkReady ∧ (bd.fluxUpdate x).bankRdy = bd.bankReady := by
  rcases bd.fluxUpdate_cases x with ⟨_, h⟩ | ⟨_, h⟩ <;> rw [h] <;> simp

/-! ### Sums over a bank (R166, R181) -/

/-- A saturating sum of non-negative terms is the exact sum, cut off at the largest word. -/
theorem foldl_fxadd_nonneg (f : Nat → Int) (l : List Nat) :
    ∀ acc : Int, 0 ≤ acc → acc ≤ p.FX_MAX → (∀ j ∈ l, 0 ≤ f j) →
      l.foldl (fun sum j => fxadd p sum (f j)) acc = min p.FX_MAX (acc + (l.map f).sum) := by
  induction l with
  | nil => intro acc h0 h1 _; simp; omega
  | cons j rest ih =>
    intro acc h0 h1 hf
    have hj : 0 ≤ f j := hf j (by simp)
    have hsum : 0 ≤ (rest.map f).sum :=
      List.sum_nonneg (by simpa using fun i hi => hf i (by simp [hi]))
    rw [List.foldl_cons, ih]
    · simp only [List.map_cons, List.sum_cons]
      unfold fxadd
      rw [sat_eq_clamp]
      have := FX_MIN_neg (p := p)
      omega
    · exact sat_nonneg (by omega)
    · exact (sat_fits _).2
    · exact fun i hi => hf i (by simp [hi])

/-- A saturating sum stays in the range of a word. -/
theorem foldl_fxadd_fits (f : Nat → Int) (l : List Nat) :
    ∀ acc : Int, Fits p acc → Fits p (l.foldl (fun sum j => fxadd p sum (f j)) acc) := by
  induction l with
  | nil => intro acc h; exact h
  | cons j rest ih => intro acc _; exact ih _ (fxadd_fits _ _)

theorem Band.magSum_fits (bd : Band p) : Fits p bd.magSum :=
  foldl_fxadd_fits _ _ 0 ⟨Int.le_of_lt FX_MIN_neg, FX_MAX_nonneg⟩

theorem Band.flux_fits (bd : Band p) : Fits p bd.flux :=
  foldl_fxadd_fits _ _ 0 ⟨Int.le_of_lt FX_MIN_neg, FX_MAX_nonneg⟩

theorem Band.bankAgg_fits (bd : Band p) (n : Bool) : Fits p (bd.bankAgg n) := by
  unfold Band.bankAgg
  cases n
  · exact bd.magSum_fits
  · exact fxmul_fits _ _

/-! ### `INIT` (R200) -/

/-- `INIT` constructs the pipeline, or fails with the first failing check's cause. -/
theorem initPipeline_cases (s : StateOf p) :
    (initFailure s = none ∧ initPipeline s = construct s) ∨
      ∃ c, initFailure s = some c ∧ initPipeline s = raiseErr c { s with mode := .failed } := by
  unfold initPipeline
  cases h : initFailure s with
  | none => exact .inl ⟨rfl, rfl⟩
  | some c => exact .inr ⟨c, rfl, rfl⟩

/-- The checks of `INIT` raise configuration causes only. -/
theorem initFailure_cause {s : StateOf p} {c : Cause} (h : initFailure s = some c) :
    c = .cfgNbands ∨ c = .cfgBlocklen ∨ c = .cfgSize := by
  unfold initFailure at h
  split at h
  next => exact .inl (Option.some.inj h).symm
  next =>
    obtain ⟨b, _, hb⟩ := List.exists_of_findSome?_eq_some h
    unfold Band.initFailure at hb
    split at hb
    next => exact .inr (.inl (Option.some.inj hb).symm)
    next =>
      split at hb
      next => exact .inr (.inr (Option.some.inj hb).symm)
      next => exact absurd hb (by simp)

/-! ### `SAMPLE` (R203) -/

/-- The state of a tick after its first four steps: the bias, envelope 0, the bands and the controller. -/
theorem onSample_fields (s : StateOf p) :
    let s₂ := envUpdate 0 (conditioned s) (dcbUpdate (adcToFx p s.sampleIn) s)
    let s₄ := agcTick (updateBands (conditioned s) s₂)
    onSample s = publishBands (fun b => (band s₂ b).bankReady) s₄ := rfl

/-- A band after a tick: its detector took the conditioned sample, and it was published if its block completed. -/
theorem band_onSample (s : StateOf p) (b : Nat) (h : b < s.nbands.toNat) :
    band (onSample s) b =
      if (band s b).bankReady then ((band s b).fluxUpdate (conditioned s)).publish s.aggNorm
      else (band s b).fluxUpdate (conditioned s) := by
  rw [onSample_fields]
  obtain ⟨cnt, stp, gain, last, bus, hk⟩ :=
    agcTick_frame (updateBands (conditioned s) (envUpdate 0 (conditioned s) (dcbUpdate (adcToFx p s.sampleIn) s)))
  simp only [hk]
  unfold band envUpdate
  simp [Table.get_updBelow, h]

/-- The bands that are not in use are left by a tick. -/
theorem band_onSample_unused (s : StateOf p) (b : Nat) (h : s.nbands.toNat ≤ b) :
    band (onSample s) b = band s b := by
  rw [onSample_fields]
  obtain ⟨cnt, stp, gain, last, bus, hk⟩ :=
    agcTick_frame (updateBands (conditioned s) (envUpdate 0 (conditioned s) (dcbUpdate (adcToFx p s.sampleIn) s)))
  simp only [hk]
  unfold band envUpdate
  simp [Table.get_updBelow, Nat.not_lt.mpr h]

/-- An envelope after a tick: envelope 0 took the conditioned sample, the others are left. -/
theorem env_onSample (s : StateOf p) (e : Nat) :
    env (onSample s) e =
      if e = 0 then { env s 0 with val := word p (envNewVal (env s 0) (conditioned s)) } else env s e := by
  rw [onSample_fields]
  obtain ⟨cnt, stp, gain, last, bus, hk⟩ :=
    agcTick_frame (updateBands (conditioned s) (envUpdate 0 (conditioned s) (dcbUpdate (adcToFx p s.sampleIn) s)))
  simp only [hk]
  unfold env envUpdate
  simp [Table.get_set, env]

/-- A tick leaves the mode, the cause, the operands and results, the raw sample, the configuration, and the host's side. -/
theorem onSample_frame (s : StateOf p) :
    ∃ bias envs bands cnt stp gain last bus, onSample s =
      { s with
        dcbBias := bias, envs := envs, bands := bands, agcHoldcnt := cnt, agcStep := stp
        agcSwgain := gain, gbusLast := last, gainBus := bus } := by
  rw [onSample_fields]
  obtain ⟨cnt, stp, gain, last, bus, hk⟩ :=
    agcTick_frame (updateBands (conditioned s) (envUpdate 0 (conditioned s) (dcbUpdate (adcToFx p s.sampleIn) s)))
  exact ⟨_, _, _, cnt, stp, gain, last, bus, by rw [hk]; rfl⟩

end Sys2Proof.Machine
end

