-- ==== Sys2Proof/Laws/Loader.lean ====
section
/-!
SUPPORT. What the loader's read of `STATUS` tells it, and what its program is.
-/

namespace Sys2Proof.Machine

variable {p : Build}

/-- R263 (4): the loader reads success exactly in a block that runs with no error recorded. -/
theorem startUpSucceeded_status (hW : 16 ≤ p.W) (s : StateOf p) :
    startUpSucceeded (readReg s .status) = true ↔ s.mode = .running ∧ s.cause = .none := by
  have h : s.mode.code + 2 ^ 8 * s.cause.code < 2 ^ p.W := by
    have h2 : 2 ^ 16 ≤ 2 ^ p.W := Nat.pow_le_pow_right (by decide) hW
    cases s.mode <;> cases s.cause <;> simp only [Mode.code, Cause.code] <;> omega
  have hr : (readReg s .status).toNat = s.mode.code + 2 ^ 8 * s.cause.code := by
    show (BitVec.ofNat p.W _).toNat = _
    rw [BitVec.toNat_ofNat, Nat.mod_eq_of_lt h]
  unfold startUpSucceeded
  rw [hr]
  cases s.mode <;> cases s.cause <;> decide

/-- R210: a configuration that fails a check gives the empty program. -/
theorem loaderProgram_of_failure {c : PhysConfig p} (w : LoaderWords p) (h : loaderCheck c ≠ .none) :
    loaderProgram c w = [] := by
  unfold loaderProgram
  rw [if_neg h]

end Sys2Proof.Machine
end

