-- ==== Sys2Proof/Laws/PerInstr.lean ====
section
/-!
SUPPORT. Families of statements about every command, one lemma per constructor of `Instr`.
`EncodeFields`: the word of a well-formed command carries the command's operation code and indices in the fields of R91.
-/

namespace Sys2Proof.Laws

/-- The four fields of a well-formed command's word. -/
def EncodeFields.Statement (i : Instr) : Prop :=
  i.wellFormed = true →
    opField (encode i) = i.op ∧ uField (encode i) = i.u ∧ jField (encode i) = i.j ∧ zField (encode i) = 0

theorem encodeFields_of_lt {i : Instr} (h1 : i.op < 256) (h2 : i.u < 256) (h3 : i.j < 256) :
    opField (encode i) = i.op ∧ uField (encode i) = i.u ∧ jField (encode i) = i.j ∧ zField (encode i) = 0 := by
  unfold opField uField jField zField encode slice
  simp only [BitVec.toNat_ofNat]
  omega

theorem EncodeFields.init : EncodeFields.Statement .init :=
  fun _ => encodeFields_of_lt (by decide) (by decide) (by decide)

theorem EncodeFields.sample : EncodeFields.Statement .sample :=
  fun _ => encodeFields_of_lt (by decide) (by decide) (by decide)

theorem EncodeFields.take (b : Nat) : EncodeFields.Statement (.take b) := fun h =>
  encodeFields_of_lt (Nat.lt_of_sub_pos (by simp [Instr.op])) (of_decide_eq_true h) (Nat.zero_lt_succ 255)

theorem EncodeFields.fxMul : EncodeFields.Statement .fxMul :=
  fun _ => encodeFields_of_lt (by decide) (by decide) (by decide)

theorem EncodeFields.fxRcp : EncodeFields.Statement .fxRcp :=
  fun _ => encodeFields_of_lt (by decide) (by decide) (by decide)

theorem EncodeFields.fxAbs : EncodeFields.Statement .fxAbs :=
  fun _ => encodeFields_of_lt (by decide) (by decide) (by decide)

theorem EncodeFields.fxSqrt : EncodeFields.Statement .fxSqrt :=
  fun _ => encodeFields_of_lt (by decide) (by decide) (by decide)

theorem EncodeFields.fxAdd : EncodeFields.Statement .fxAdd :=
  fun _ => encodeFields_of_lt (by decide) (by decide) (by decide)

theorem EncodeFields.fxSub : EncodeFields.Statement .fxSub :=
  fun _ => encodeFields_of_lt (by decide) (by decide) (by decide)

theorem EncodeFields.fxFromint : EncodeFields.Statement .fxFromint :=
  fun _ => encodeFields_of_lt (by decide) (by decide) (by decide)

theorem EncodeFields.fxToint : EncodeFields.Statement .fxToint :=
  fun _ => encodeFields_of_lt (by decide) (by decide) (by decide)

theorem EncodeFields.dcbUpd : EncodeFields.Statement .dcbUpd :=
  fun _ => encodeFields_of_lt (by decide) (by decide) (by decide)

theorem EncodeFields.envUpd (e : Nat) : EncodeFields.Statement (.envUpd e) := fun h =>
  encodeFields_of_lt (Nat.lt_of_sub_pos (by simp [Instr.op])) (of_decide_eq_true h) (Nat.zero_lt_succ 255)

theorem EncodeFields.gzUpd (b j : Nat) : EncodeFields.Statement (.gzUpd b j) := fun h => by
  simp only [Instr.wellFormed, fitsIndexField, Bool.and_eq_true, decide_eq_true_eq] at h
  exact encodeFields_of_lt (Nat.lt_of_lt_of_le (by decide : 0x40 < 256) (Nat.le_refl _)) h.1 h.2

theorem EncodeFields.bankUpd (b : Nat) : EncodeFields.Statement (.bankUpd b) := fun h =>
  encodeFields_of_lt (Nat.lt_of_sub_pos (by simp [Instr.op])) (of_decide_eq_true h) (Nat.zero_lt_succ 255)

theorem EncodeFields.bankAgg (b : Nat) : EncodeFields.Statement (.bankAgg b) := fun h =>
  encodeFields_of_lt (Nat.lt_of_sub_pos (by simp [Instr.op])) (of_decide_eq_true h) (Nat.zero_lt_succ 255)

theorem EncodeFields.fluxUpd (b : Nat) : EncodeFields.Statement (.fluxUpd b) := fun h =>
  encodeFields_of_lt (Nat.lt_of_sub_pos (by simp [Instr.op])) (of_decide_eq_true h) (Nat.zero_lt_succ 255)

theorem EncodeFields.fluxOnset (b : Nat) : EncodeFields.Statement (.fluxOnset b) := fun h =>
  encodeFields_of_lt (Nat.lt_of_sub_pos (by simp [Instr.op])) (of_decide_eq_true h) (Nat.zero_lt_succ 255)

theorem EncodeFields.agcTick : EncodeFields.Statement .agcTick :=
  fun _ => encodeFields_of_lt (by decide) (by decide) (by decide)

end Sys2Proof.Laws
end

