-- ==== Sys2Proof/Tests/Slice0.lean ====
section
/-!
SUPPORT. The model's own tests: the well-formedness checks, the decoding of every command's word, single commands with the values the
spec works out (spec/95_test_vectors.md and the rules' examples), and one witness for every obligation that has hypotheses.
-/

open Sys2Proof Sys2Proof.Machine Sys2Proof.Config

namespace Sys2Proof.Tests

-- One theorem after the other: each kernel evaluation would otherwise hold a thread of its own.
set_option Elab.async false

/-! ### Helpers: small states -/

/-- A band of `n` samples a block and `m` bins, with its scalers. -/
def bandOf (n m : Word) : Band build :=
  { Band.zero with blockLen := n, size := m, magScaler := scalerOf build n, sizeScaler := scalerOf build m }

/-- `RUNNING` with one band. -/
def running (bd : Band build) : State :=
  { State.reset with mode := .running, nbands := 1, bands := Table.empty.set 0 bd }

/-- `RUNNING` with one band of 4 samples a block and one bin. -/
def small : State := running (bandOf 4 1)

/-- `small` with the bin one sample before a boundary, after tick 3 of program P2. -/
def boundary : State :=
  running { bandOf 4 1 with
    bins := Table.empty.set 0 { Bin.zero with q0 := 0xFFFFF000#32, q1 := 0xFFFFF000#32, q2 := 0x800#32, blkPos := 3 } }

/-- `UNCONFIGURED` with a valid configuration at the ends of its ranges: eight bands of `NMAX` samples and `MAXBINS` bins. -/
def largest : State :=
  { State.reset with
    nbands := 8
    bands := (List.range 8).foldl (fun t b => t.set b { Band.zero with blockLen := 32767, size := 256 }) Table.empty }

/-- `UNCONFIGURED` with the smallest valid configuration. -/
def smallest : State :=
  { State.reset with nbands := 1, bands := Table.empty.set 0 { Band.zero with blockLen := 1, size := 1 } }

/-- `UNCONFIGURED` with one band as given. -/
def unconfigured (n m : Word) : State :=
  { State.reset with nbands := 1, bands := Table.empty.set 0 { Band.zero with blockLen := n, size := m } }

/-- `s` with one host operation to come. -/
def withOp (op : BusOp build) (s : State) : State := { s with pending := [op] }

/-! ### Well-formedness: an ill-formed command for each check (R91, R92) -/

theorem test_wf_take : (Instr.take 256).wellFormed = false := by decide
theorem test_wf_envUpd : (Instr.envUpd 256).wellFormed = false := by decide
theorem test_wf_gzUpd_band : (Instr.gzUpd 256 0).wellFormed = false := by decide
theorem test_wf_gzUpd_bin : (Instr.gzUpd 0 256).wellFormed = false := by decide
theorem test_wf_bankUpd : (Instr.bankUpd 256).wellFormed = false := by decide
theorem test_wf_bankAgg : (Instr.bankAgg 256).wellFormed = false := by decide
theorem test_wf_fluxUpd : (Instr.fluxUpd 256).wellFormed = false := by decide
theorem test_wf_fluxOnset : (Instr.fluxOnset 256).wellFormed = false := by decide
theorem test_wf_largest : (Instr.gzUpd 255 255).wellFormed = true := by decide

/-! ### Decoding: the word of every command, written out from the patterns of R93 -/

theorem test_decode_init : decode .cmd 0x01000000#32 = some .init := by decide
theorem test_decode_sample : decode .cmd 0x02000000#32 = some .sample := by decide
theorem test_decode_take : decode .ccmd 0x03A50000#32 = some (.take 0xA5) := by decide
theorem test_decode_fxMul : decode .cmd 0x10000000#32 = some .fxMul := by decide
theorem test_decode_fxRcp : decode .cmd 0x11000000#32 = some .fxRcp := by decide
theorem test_decode_fxAbs : decode .cmd 0x12000000#32 = some .fxAbs := by decide
theorem test_decode_fxSqrt : decode .cmd 0x13000000#32 = some .fxSqrt := by decide
theorem test_decode_fxAdd : decode .cmd 0x14000000#32 = some .fxAdd := by decide
theorem test_decode_fxSub : decode .cmd 0x15000000#32 = some .fxSub := by decide
theorem test_decode_fxFromint : decode .cmd 0x16000000#32 = some .fxFromint := by decide
theorem test_decode_fxToint : decode .cmd 0x17000000#32 = some .fxToint := by decide
theorem test_decode_dcbUpd : decode .cmd 0x20000000#32 = some .dcbUpd := by decide
theorem test_decode_envUpd : decode .cmd 0x30A50000#32 = some (.envUpd 0xA5) := by decide
theorem test_decode_gzUpd : decode .cmd 0x40A55A00#32 = some (.gzUpd 0xA5 0x5A) := by decide
theorem test_decode_bankUpd : decode .cmd 0x50A50000#32 = some (.bankUpd 0xA5) := by decide
theorem test_decode_bankAgg : decode .cmd 0x51A50000#32 = some (.bankAgg 0xA5) := by decide
theorem test_decode_fluxUpd : decode .cmd 0x60A50000#32 = some (.fluxUpd 0xA5) := by decide
theorem test_decode_fluxOnset : decode .cmd 0x61A50000#32 = some (.fluxOnset 0xA5) := by decide
theorem test_decode_agcTick : decode .cmd 0x70000000#32 = some .agcTick := by decide
theorem test_decode_low_byte : decode .cmd 0x10000001#32 = none := by decide
theorem test_decode_unused_field : decode .cmd 0x30A50100#32 = none := by decide
theorem test_decode_wrong_register : decode .cmd 0x03000000#32 = none ∧ decode .ccmd 0x01000000#32 = none := by
  decide
theorem test_table_word : decodeTableWord 32 0x03070000 = some (.take 7) := by decide

/-! ### The step: the word placed for it is the one it runs -/

theorem test_withFetchWord_init :
    step (State.reset.withFetchWord 32 0x01000000) =
      .next { State.reset with mode := .failed, cause := .cfgNbands } := by rfl
theorem test_withFetchWord_take :
    step (State.reset.withFetchWord 32 0x03000000) = .next { State.reset with cause := .cmdMode } := by rfl
theorem test_step_idle : step State.reset = .next State.reset := by rfl

/-- R231's codes in `STATUS`: the cause of a read of an unmapped address, 11. -/
theorem test_status :
    readReg { State.reset with mode := .running, cause := .busAddr } .status = 0x00000B01#32 := by decide +kernel

/-! ### Single commands, with the values of the rules' examples -/

theorem test_fxMul : (after .fxMul { State.reset with a := 0x00030000#32, b := 0x00028000#32 }).r = 0x00078000#32 := by
  decide +kernel
theorem test_fxMul_floor : (after .fxMul { State.reset with a := 0xFFFFFFFF#32, b := 1 }).r = 0xFFFFFFFF#32 := by
  decide +kernel
theorem test_fxRcp : (after .fxRcp { State.reset with a := 0x00640000#32 }).r = 0x0000028F#32 := by decide +kernel
theorem test_fxRcp_negative : (after .fxRcp { State.reset with a := 0xFFFD0000#32 }).r = 0xFFFFAAAA#32 := by
  decide +kernel
theorem test_fxAbs : (after .fxAbs { State.reset with a := 0x80000000#32 }).r = 0x7FFFFFFF#32 := by decide +kernel
theorem test_fxSqrt : (after .fxSqrt { State.reset with a := 0x00020000#32 }).r = 0x00016A09#32 := by decide +kernel
theorem test_fxSqrt_max : (after .fxSqrt { State.reset with a := 0x7FFFFFFF#32 }).r = 0x00B504F3#32 := by decide +kernel
theorem test_fxAdd : (after .fxAdd { State.reset with a := 0x40000000#32, b := 0x40000000#32 }).r = 0x7FFFFFFF#32 := by
  decide +kernel
theorem test_fxSub : (after .fxSub { State.reset with a := 0, b := 0x80000000#32 }).r = 0x7FFFFFFF#32 := by
  decide +kernel
theorem test_fxFromint : (after .fxFromint { State.reset with a := 32768 }).r = 0x7FFFFFFF#32 := by decide +kernel
theorem test_fxToint : (after .fxToint { State.reset with a := 0xFFFE8000#32 }).r = 0xFFFFFFFE#32 := by decide +kernel

/-- V-DCB-1, row 4. -/
theorem test_dcbUpd :
    let t := after .dcbUpd { small with dcbA0 := 0x2000#32, dcbBias := 0x548#32, a := 0 }
    t.dcbBias = 0x49F#32 ∧ t.r = 0xFFFFFB61#32 := by decide +kernel

/-- R151's example: an attack, then a release. -/
theorem test_envUpd_attack :
    (after (.envUpd 0) { small with
      a := 0xFFFFF000#32, envs := Table.empty.set 0 { atk := 0x8000#32, rel := 0xF000#32, val := 0 } }).r = 0x800#32 := by
  decide +kernel
theorem test_envUpd_release :
    (after (.envUpd 0) { small with
      a := 0, envs := Table.empty.set 0 { atk := 0x8000#32, rel := 0xF000#32, val := 0x800#32 } }).r = 0x780#32 := by
  decide +kernel

/-- P2, tick 3: off a boundary; and tick 4: on one. -/
theorem test_gzUpd_advances :
    let t := after (.gzUpd 0 0) (running { bandOf 4 1 with
      bins := Table.empty.set 0 { Bin.zero with q0 := 0x800#32, q1 := 0x800#32, q2 := 0x1000#32, blkPos := 2 } })
    t.t = false ∧ bin t 0 0 = { Bin.zero with q0 := 0xFFFFF000#32, q1 := 0xFFFFF000#32, q2 := 0x800#32, blkPos := 3 } := by
  decide +kernel
theorem test_gzUpd_boundary :
    let t := after (.gzUpd 0 0) { boundary with a := 0x800#32 }
    t.t = true ∧ bin t 0 0 = { Bin.zero with mag := 0x400#32 } ∧ (band t 0).bankRdy = false := by decide +kernel
theorem test_bankUpd_boundary :
    let t := after (.bankUpd 0) { boundary with a := 0x800#32 }
    t.t = true ∧ bin t 0 0 = { Bin.zero with mag := 0x400#32 } ∧ (band t 0).bankRdy = true ∧ (band t 0).wrIdx = 0 := by
  decide +kernel

/-- R166's example. -/
def twoMags : Band build :=
  { bandOf 100 2 with
    bins := (Table.empty.set 0 { Bin.zero with mag := 0x800#32 }).set 1 { Bin.zero with mag := 0x100#32 } }
theorem test_bankAgg : (after (.bankAgg 0) (running twoMags)).r = 0x900#32 := by decide +kernel
theorem test_bankAgg_normalised : (after (.bankAgg 0) { running twoMags with aggNorm := true }).r = 0x480#32 := by
  decide +kernel

/-- R182's example: the flux of a block. -/
theorem test_flux :
    let bd := { bandOf 100 2 with
      bins := (Table.empty.set 0 { Bin.zero with mag := 0xA00#32, prevMag := 0x800#32 }).set 1
        { Bin.zero with mag := 0x100#32, prevMag := 0x300#32 } }
    bd.fluxBlock.fluxHist.get 1 = 0x400#32 ∧ (bd.fluxBlock.bins.get 1).prevMag = 0x100#32 := by decide +kernel
/-- P2, tick 4: the first flux goes to slot 1. -/
theorem test_fluxUpd :
    let t := after (.fluxUpd 0) { boundary with a := 0x800#32 }
    (band t 0).wrIdx = 1 ∧ (band t 0).fluxHist.get 1 = 0x800#32 ∧ (bin t 0 0).prevMag = 0x400#32 := by decide +kernel

/-- R184's example. -/
def fiveFluxes (w : Word) : State :=
  running { bandOf 4 1 with fluxHist := Table.ofList [5, 9, 4, 1, 7], wrIdx := w }
theorem test_fluxOnset_hit : (after (.fluxOnset 0) (fiveFluxes 3)).t = true := by decide +kernel
theorem test_fluxOnset_miss : (after (.fluxOnset 0) { fiveFluxes 2 with t := true }).t = false := by decide +kernel

/-- R191's example, and a tick that only counts. -/
theorem test_agcTick_up :
    let t := after .agcTick { small with agcHold := 2, envs := Table.empty.set 0 { Env.zero with val := 0x100#32 } }
    t.agcHoldcnt = 2 ∧ t.agcStep = 1 ∧ t.gbusLast = 0x4001#16 ∧ t.gainBus = [0x4001#16] ∧ t.agcSwgain = 0x01000000#32 := by
  decide +kernel
theorem test_agcTick_counts :
    let t := after .agcTick { small with agcHoldcnt := 2 }
    t.agcHoldcnt = 1 ∧ t.agcStep = 0 ∧ t.gainBus = [] := by decide +kernel

/-- P2, tick 4. -/
theorem test_sample :
    let t := after .sample { boundary with sampleIn := 0x800#16, agcHoldcnt := 1, agcHold := 3 }
    (band t 0).outMag = 0x400#32 ∧ (band t 0).outOnset = false ∧ (band t 0).outReady = true ∧
      (band t 0).outOverrun = 0 ∧ (env t 0).val = 0x800#32 ∧ t.agcHoldcnt = 0 ∧ (band t 0).wrIdx = 1 := by decide +kernel
/-- A publication that finds the last one not taken is counted, up to the largest value (R207). -/
theorem test_sample_overrun :
    let s := running { bandOf 1 1 with outReady := true, outOverrun := 0xFFFFFFFE#32 }
    (band (after .sample s) 0).outOverrun = 0xFFFFFFFF#32 ∧
      (band (after .sample (after .sample s)) 0).outOverrun = 0xFFFFFFFF#32 := by decide +kernel

/-- R208's example. -/
theorem test_take :
    let t := after (.take 0) (running { bandOf 4 1 with outReady := true, outMag := 0x800#32 })
    (band t 0).tkReady = true ∧ (band t 0).tkMag = 0x800#32 ∧ (band t 0).outReady = false := by decide +kernel
/-- R202's examples. -/
theorem test_init :
    let t := after .init { State.reset with
      nbands := 1, bands := Table.empty.set 0 { Band.zero with blockLen := 100, size := 2 } }
    t.mode = .running ∧ (band t 0).magScaler = 0x28F#32 ∧ (band t 0).sizeScaler = 0x8000#32 := by decide +kernel
theorem test_init_fails :
    (after .init State.reset).mode = .failed ∧ (after .init State.reset).cause = .cfgNbands := by decide +kernel

/-! ### Witnesses: states and operands that meet the hypotheses of the obligations -/

theorem valid_of {s : State} (h : 1 ≤ s.nbands.toNat ∧ s.nbands.toNat ≤ build.MAXBANDS ∧ ∀ b < s.nbands.toNat,
    1 ≤ (band s b).blockLen.toNat ∧ (band s b).blockLen.toNat ≤ build.NMAX ∧
      1 ≤ (band s b).size.toNat ∧ (band s b).size.toNat ≤ build.MAXBINS) : ConfigValid s := h

theorem witness_DecodeInvertsEncode :
    (Instr.gzUpd 255 255).wellFormed = true ∧ (Instr.take 255).wellFormed = true ∧ (Instr.envUpd 0).wellFormed = true := by
  decide
theorem witness_EncodeInvertsDecode :
    decode .cmd 0x40FFFF00#32 = some (.gzUpd 255 255) ∧ decode .ccmd 0x03000000#32 = some (.take 0) := by decide
theorem witness_IllegalWordOnlyRecords :
    (¬ ∃ i : Instr, i.wellFormed = true ∧ i.cmdReg = .cmd ∧ encode i = 0x10000001#32) ∧
      (withOp (.write .p 0x0000#16 0x10000001#32) small).pending =
        .write (commandPort .cmd) (commandAddr .cmd) 0x10000001#32 :: [] := by
  refine ⟨?_, rfl⟩
  rintro ⟨i, _, _, h⟩
  have h := congrArg BitVec.toNat h
  simp only [encode, BitVec.toNat_ofNat] at h
  omega
theorem witness_StepRunsDecodedCommand :
    decode .ccmd 0x03000000#32 = some (.take 0) ∧
      (withOp (.write .c 0x0001#16 0x03000000#32) small).pending =
        .write (commandPort .ccmd) (commandAddr .ccmd) 0x03000000#32 :: [] := by decide
theorem witness_ReadAnswersAndChangesNothing :
    (withOp (.read .c 0x8712#16) small).pending = .read .c 0x8712#16 :: [] ∧
      decodeAddr build 0x8712#16 = some (.blkPos 7 0x12) ∧
      decodeAddr build 0x0024#16 = none ∧ decodeAddr build 0x100D#16 = none ∧ decodeAddr build 0x9000#16 = none := by decide
theorem witness_AddressMapRows :
    decodeAddr build 0x004F#16 = some (.agcSwtab 7) ∧ decodeAddr build 0x800C#16 = some (.fluxHist 7 4) ∧
      decodeAddr build 0x87FF#16 = some (.blkPos 7 255) := by decide
theorem witness_AddressMapRoundTrip :
    (Reg.blkPos 7 255).isMapped build = true ∧ (Reg.fluxHist 7 4).isMapped build = true ∧ (Reg.envVal 0).isMapped build = true ∧
      decodeAddr build 0xFFFF#16 = none ∧ decodeAddr build 0x1000#16 = some (.blockLen 0) := by decide
theorem witness_WriteRule :
    (withOp (.write .p 0x0009#16 8#32) smallest).pending = .write .p 0x0009#16 8#32 :: [] ∧
      decodeAddr build 0x9000#16 = none ∧ decodeAddr build 0x0000#16 = some .cmd ∧ decodeAddr build 0x0001#16 = some .ccmd ∧
      (decodeAddr build 0x0007#16 = some .sampleIn ∧ Reg.sampleIn.regClass = .operand) ∧
      (decodeAddr build 0x0009#16 = some .nbands ∧ Reg.nbands.regClass = .configuration ∧ smallest.mode = .unconfigured) ∧
      (small.mode ≠ .unconfigured ∧ Reg.nbands.regClass ≠ .operand ∧ Reg.nbands ≠ .cmd ∧ Reg.nbands ≠ .ccmd) := by
  decide +kernel
theorem witness_ModeCheck :
    ¬ Admitted .init small.mode ∧ ¬ Admitted .sample State.reset.mode ∧ ¬ Admitted .fxMul (after .init State.reset).mode ∧
      (Admitted (.take 0) small.mode ∧ small.cause = .none) ∧
      (Admitted .fxMul State.reset.mode ∧ State.reset.cause = .none) := by
  refine ⟨fun h => h rfl, by simp [Admitted, isFx, State.reset, resetState], fun h => h, ⟨?_, rfl⟩, .inr (by simp [isFx]), rfl⟩
  exact (by decide : Instr.take 0 ≠ .init)
theorem witness_IndexCheck :
    Admitted (.gzUpd 0 0) small.mode ∧ IndicesInRange (.gzUpd 0 0) small ∧ ¬ IndicesInRange (.gzUpd 0 1) small ∧
      ¬ IndicesInRange (.take 1) small ∧ ¬ IndicesInRange (.envUpd 1) small ∧ small.cause = .none := by
  refine ⟨(by decide : Instr.gzUpd 0 0 ≠ .init), ⟨by decide +kernel, by decide +kernel⟩, ?_, ?_, ?_, rfl⟩
  · exact fun h => absurd h.2 (by decide +kernel)
  · exact fun h => absurd (show 1 < small.nbands.toNat from h) (by decide +kernel)
  · exact fun h => absurd (show 1 < build.NE from h) (by decide)
theorem witness_ErrorsStickyAndPrecise :
    (∃ t, step (withOp .reset small) = .next t) ∧
      (∃ t, step (withOp (.read .p 0xFFFF#16) small) = .next t ∧ t.cause ≠ small.cause) ∧
      (∃ t, step (withOp (.write .p 0#16 0x01000000#32) State.reset) = .next t ∧ t.mode = .failed) ∧
      ∃ t, step (withOp (.read .p 0xFFFF#16) { small with cause := .cmdMode }) = .next t ∧ t.cause = .cmdMode :=
  ⟨⟨_, rfl⟩, ⟨_, rfl, by decide +kernel⟩, ⟨_, rfl, by decide +kernel⟩, ⟨_, rfl, by decide +kernel⟩⟩
theorem witness_ModeTransitions :
    (∃ t, step (withOp .reset small) = .next t) ∧
      (∃ t, step (withOp (.write .p 0#16 0x01000000#32) smallest) = .next t ∧ t.mode = .running) ∧
      ∃ t, step (withOp (.write .p 0#16 0x02000000#32) small) = .next t :=
  ⟨⟨_, rfl⟩, ⟨_, rfl, by decide +kernel⟩, ⟨_, rfl⟩⟩
theorem witness_ConsumerIsolation :
    (∃ t, step (withOp (.write .c 0x0001#16 0x03000000#32) small) = .next t) ∧
      (∃ t, step (withOp (.read .c 0x0002#16) small) = .next t) ∧
      Reg.agcStep ≠ .status ∧
      ∀ b, Reg.agcStep ≠ .outReady b ∧ Reg.agcStep ≠ .tkMag b ∧ Reg.agcStep ≠ .tkOnset b ∧ Reg.agcStep ≠ .tkReady b :=
  ⟨⟨_, rfl⟩, ⟨_, rfl⟩, by decide, fun b => ⟨by simp, by simp, by simp, by simp⟩⟩
theorem witness_ConfigurationLocked :
    (∃ t, step (withOp (.write .p 0x0009#16 2#32) small) = .next t) ∧ small.mode ≠ .unconfigured ∧
      decodeAddr build 0x0009#16 = some .nbands ∧ Reg.nbands.regClass = .configuration := by
  refine ⟨⟨_, rfl⟩, by decide +kernel, by decide, rfl⟩
theorem witness_ResetRegisters :
    (withOp .reset small).pending = .reset :: [] ∧ Reg.agcHold ≠ .agcLow ∧ Reg.agcHold ≠ .agcHigh ∧
      Reg.agcHold ≠ .agcSwgain ∧ ∀ k < 8, Reg.agcHold ≠ .agcSwtab k := by decide +kernel

/-- A band of `small`, at any index. -/
theorem band_small (op : BusOp build) (b : Nat) : band (withOp op small) b = if b = 0 then bandOf 4 1 else Band.zero :=
  Table.get_set _ _ _ _
theorem valid_small (op : BusOp build) : ConfigValid (withOp op small) := by
  refine ⟨(by decide : 1 ≤ (1#32).toNat), (by decide : (1#32).toNat ≤ 8), fun b hb => ?_⟩
  have h0 : b = 0 := Nat.lt_one_iff.1 hb
  subst h0
  unfold BandConfigOk
  rw [band_small]
  decide +kernel
theorem idle_small (op : BusOp build) (b : Nat) (h : b ≠ 0) : (band (withOp op small) b).Idle := by
  rw [band_small, if_neg h]
  exact ⟨rfl, fun _ => rfl⟩
theorem configInv_small (op : BusOp build) : ConfigInv (withOp op small) := by
  refine fun _ => ⟨valid_small _, fun b hb => ?_⟩
  have h0 : b = 0 := Nat.lt_one_iff.1 hb
  subst h0
  exact ⟨by rw [band_small]; rfl, by rw [band_small]; rfl⟩
theorem gainInv_small (op : BusOp build) : GainInv (withOp op small) :=
  ⟨fun _ => rfl, fun h => absurd rfl h, fun _ h => absurd h List.not_mem_nil, rfl, rfl⟩
theorem lifecycleInv_small (op : BusOp build) : LifecycleInv (withOp op small) :=
  ⟨(by decide : Cause.none ≠ .cfgSampleRate), (by decide : Cause.none ≠ .cfgFreqRange),
    fun h => absurd h (by decide : Mode.running ≠ .failed), fun h => absurd rfl h⟩
theorem bin_small (op : BusOp build) (b j : Nat) : bin (withOp op small) b j = Bin.zero := by
  show (band (withOp op small) b).bins.get j = _
  rw [band_small]
  split <;> rfl
theorem unusedInv_small (op : BusOp build) : UnusedInv (withOp op small) := by
  refine ⟨fun b hb => ?_, fun b j _ => bin_small op b j, fun b k _ => ?_, fun _ _ => rfl, fun k hk => ?_, fun _ => ⟨fun b hb => ?_, fun b j _ => ?_⟩⟩
  · rw [band_small, if_neg (Nat.ne_of_gt (Nat.lt_of_lt_of_le (by decide) hb))]
  · rw [band_small]
    split <;> rfl
  · show (swtabReset build).get k = 0
    unfold swtabReset
    rw [Table.get_ofList]
    exact List.getD_eq_default _ _ hk
  · exact idle_small _ b (Nat.ne_of_gt hb)
  · rw [bin_small]
    rfl
theorem bandInv_small (op : BusOp build) : BandInv (withOp op small) := by
  refine ⟨fun b j => by rw [bin_small]; decide, fun b => ?_, fun b k => ?_, fun _ b hb j _ => ?_⟩
  · rw [band_small]
    split <;> decide
  · rw [band_small]
    split <;> exact (by decide : (0 : Int) ≤ (0#32).toInt)
  · have h0 : b = 0 := Nat.lt_one_iff.1 hb
    subst h0
    rw [bin_small, band_small]
    decide
theorem witness_ConfigInvKept :
    ConfigInv (withOp (.write .p 0#16 0x02000000#32) small) ∧
      ∃ t, step (withOp (.write .p 0#16 0x02000000#32) small) = .next t := ⟨configInv_small _, ⟨_, rfl⟩⟩
/-- `small` after one gain step, with a controller tick to come. -/
def stepped : State :=
  { withOp (.write .p 0#16 0x70000000#32) small with
    agcStep := 1, agcSwgain := 0x01000000#32, gbusLast := 0x4001#16, gainBus := [0x4001#16] }
theorem witness_GainInvKept : GainInv stepped ∧ ∃ t, step stepped = .next t :=
  ⟨⟨fun _ => by decide +kernel, fun h => absurd rfl h, by simp [stepped], rfl, by decide +kernel⟩, ⟨_, rfl⟩⟩
theorem witness_LifecycleInvKept :
    (LifecycleInv (withOp (.write .p 0#16 0x70000000#32) small) ∧
      ∃ t, step (withOp (.write .p 0#16 0x70000000#32) small) = .next t) ∧
      (withOp (.write .p 0#16 0x01000000#32) State.reset).agcSwgain = 0x04000000#32 ∧
      ∃ t, step (withOp (.write .p 0#16 0x01000000#32) State.reset) = .next t ∧ t.mode = .failed ∧ t.cause ≠ .none :=
  ⟨⟨lifecycleInv_small _, ⟨_, rfl⟩⟩, by decide +kernel, ⟨_, rfl, by decide +kernel, by decide +kernel⟩⟩
theorem witness_UnusedInvKept :
    let s := withOp (.write .p 0#16 0x50000000#32) small
    ConfigInv s ∧ LifecycleInv s ∧ UnusedInv s ∧ ∃ t, step s = .next t :=
  ⟨configInv_small _, lifecycleInv_small _, unusedInv_small _, ⟨_, rfl⟩⟩
theorem witness_BandInvKept :
    let s := withOp (.write .p 0#16 0x50000000#32) small
    ConfigInv s ∧ BandInv s ∧ ∃ t, step s = .next t :=
  ⟨configInv_small _, bandInv_small _, ⟨_, rfl⟩⟩
theorem witness_EveryBuildKeepsInvariants :
    let s := withOp (.write .p 0#16 0x02000000#32) small
    build.Legal ∧ ConfigInv s ∧ GainInv s ∧ LifecycleInv s ∧ UnusedInv s ∧ BandInv s ∧ ∃ t, stepAt s = .next t :=
  ⟨by decide, configInv_small _, gainInv_small _, lifecycleInv_small _, unusedInv_small _, bandInv_small _, ⟨_, rfl⟩⟩
theorem witness_BankSyncKept :
    small.mode = .running ∧ 0 < small.nbands.toNat ∧ 1 ≤ (band small 0).size.toNat ∧ BankSync (band small 0) ∧
      (∃ t, exec (.bankUpd 0) small = .next t) ∧ (∃ t, exec (.fluxUpd 0) small = .next t) ∧
      (∃ t, exec .sample small = .next t) ∧ smallest.mode = .unconfigured ∧ ConfigValid smallest :=
  ⟨rfl, by decide +kernel, by decide +kernel, fun j _ => rfl, ⟨_, rfl⟩, ⟨_, rfl⟩, ⟨_, rfl⟩, rfl, valid_of (by decide +kernel)⟩
theorem witness_InitSucceeds :
    (largest.mode = .unconfigured ∧ ConfigValid largest) ∧ smallest.mode = .unconfigured ∧ ConfigValid smallest :=
  ⟨⟨rfl, valid_of (by decide +kernel)⟩, rfl, valid_of (by decide +kernel)⟩
theorem witness_InitFailsAtFirstCheck :
    State.reset.nbands.toNat = 0 ∧ 8 < { State.reset with nbands := 9 }.nbands.toNat ∧
      (band (unconfigured 0 1) 0).blockLen.toNat = 0 ∧ 32767 < (band (unconfigured 32768 1) 0).blockLen.toNat ∧
      (band (unconfigured 32767 0) 0).blockLen.toNat = 32767 ∧ (band (unconfigured 32767 0) 0).size.toNat = 0 ∧
      256 < (band (unconfigured 1 257) 0).size.toNat ∧ (unconfigured 0 1).mode = .unconfigured ∧ ConfigValid largest :=
  ⟨by decide, by decide, by decide, by decide, by decide, by decide, by decide, rfl, valid_of (by decide +kernel)⟩
theorem witness_FxCommands : State.reset.mode ≠ .failed ∧ small.mode ≠ .failed := by decide
theorem witness_FxRcpResult :
    (0#32).toInt = 0 ∧ ((0 : Int) < (3#32).toInt ∧ 1431655765 * (3#32).toInt ≤ 4294967296 ∧
      4294967296 < (1431655765 + 1) * (3#32).toInt) ∧
      (0xFFFFFFFF#32).toInt < 0 ∧ 4294967296 ≤ -4294967296 * (0xFFFFFFFF#32).toInt ∧
      (-4294967296 + 1) * (0xFFFFFFFF#32).toInt < 4294967296 := by decide
theorem witness_FxSqrtResult : (0#32).toInt ≤ 0 ∧ (0x80000000#32).toInt ≤ 0 ∧ 0 < (1#32).toInt := by decide
theorem witness_FixedPointLaws :
    (0 ≤ (65536#32).toInt ∧ (65536#32).toInt ≤ 65536 ∧ 0 ≤ (0#32).toInt) ∧ (0xFFFFFFFF#32).toInt ≤ 0 ∧
      0 < (1#32).toInt ∧ (0xFFFFFFFF#32).toInt ≠ -2147483648 ∧ (0x80000000#32).toInt = -2147483648 := by decide
theorem witness_DcbUpdResult : small.mode = .running ∧ ¬ Admitted .dcbUpd State.reset.mode :=
  ⟨rfl, by simp [Admitted, isFx, State.reset, resetState]⟩
theorem witness_DcbTracking :
    let s := { small with dcbA0 := 65536#32, a := 0x7FFFFFFF#32 }
    let u := { small with dcbA0 := 1#32, a := 0x80000000#32 }
    let v := { small with dcbA0 := 0x2000#32, a := 7#32 }
    (s.mode = .running ∧ 0 ≤ s.dcbA0.toInt ∧ s.dcbA0.toInt ≤ 65536 ∧
      -2147483648 ≤ s.a.toInt - s.dcbBias.toInt ∧ s.a.toInt - s.dcbBias.toInt ≤ 2147483647) ∧
      (u.a.toInt < u.dcbBias.toInt ∧ 0 < u.dcbA0.toInt ∧ -2147483648 ≤ u.a.toInt - u.dcbBias.toInt) ∧
      0 < v.a.toInt - v.dcbBias.toInt ∧ v.dcbA0.toInt * (v.a.toInt - v.dcbBias.toInt) < 65536 := by decide
theorem witness_EnvUpdResult : small.mode = .running ∧ 0 < build.NE ∧ build.NE ≤ 1 := by decide
theorem witness_EnvelopeBounds :
    let ev : Env build := { atk := 65536#32, rel := 0, val := 5#32 }
    0 ≤ ev.atk.toInt ∧ ev.atk.toInt ≤ 65536 ∧ 0 ≤ ev.rel.toInt ∧ ev.rel.toInt < 65536 ∧ 0 ≤ ev.val.toInt ∧
      ev.val.toInt < fxabs build (0x80000000#32).toInt ∧ fxabs build (4#32).toInt < ev.val.toInt ∧ 0 < ev.atk.toInt ∧
      (let half := { ev with atk := 32768#32 }
       half.val.toInt < fxabs build (6#32).toInt ∧ 0 < half.atk.toInt ∧ half.atk.toInt ≤ 32768) := by decide
/-- By hand from R151 with `ATK` = 0.75 and `|x|` = 10: from 8, `10 + floor(0.75 * -2) = 8`; with `ATK` = 0.5, `10 + floor(0.5 * -2) = 9`
(notes/assumptions/15.md). -/
theorem test_envelope_attack_stops :
    envNewVal { atk := 0xC000#32, rel := 0, val := 8#32 : Env build } 10 = 8 ∧
      envNewVal { atk := 0x8000#32, rel := 0, val := 8#32 : Env build } 10 = 9 ∧
      envNewVal { atk := 0x8000#32, rel := 0, val := 9#32 : Env build } 10 = 9 := by decide
theorem witness_GzUpdResult :
    (small.mode = .running ∧ 0 < small.nbands.toNat ∧ 0 < (band small 0).size.toNat ∧
      (bin small 0 0).blkPos.toNat + 1 ≠ (band small 0).blockLen.toNat ∧ (bin small 0 0).blkPos.toNat + 1 < 4294967296) ∧
      0 < boundary.nbands.toNat ∧ 0 < (band boundary 0).size.toNat ∧
      (bin boundary 0 0).blkPos.toNat + 1 = (band boundary 0).blockLen.toNat := by decide +kernel
theorem witness_BankUpdResult : small.mode = .running ∧ 0 < small.nbands.toNat ∧ 0 < (band small 0).size.toNat := by
  decide +kernel
theorem witness_BankSynchrony :
    small.mode = .running ∧ ConfigValid small ∧ 0 < small.nbands.toNat ∧
      (∀ j < (band small 0).size.toNat, (bin small 0 j).blkPos = 0) ∧ [1#32, 2#32, 3#32, 4#32] ≠ [] :=
  ⟨rfl, valid_of (by decide +kernel), by decide +kernel, fun _ _ => rfl, by decide⟩
theorem witness_BankAggResult :
    (running twoMags).mode = .running ∧ 0 < (running twoMags).nbands.toNat ∧
      ∀ j < (band (running twoMags) 0).size.toNat, 0 ≤ (bin (running twoMags) 0 j).mag.toInt := by decide +kernel
theorem witness_FluxUpdResult :
    (boundary.mode = .running ∧ 0 < boundary.nbands.toNat ∧ (after (.bankUpd 0) boundary).t = true) ∧
      (after (.bankUpd 0) small).t = false := by decide +kernel
theorem witness_FluxIsTwiceTheIncreases (j : Nat) :
    0 ≤ (twoMags.bins.get j).mag.toInt ∧ 0 ≤ (twoMags.bins.get j).prevMag.toInt := by
  show 0 ≤ (((Table.empty.set 0 _).set 1 _ : Table (Bin build) Bin.zero).get j).mag.toInt ∧
    0 ≤ (((Table.empty.set 0 _).set 1 _ : Table (Bin build) Bin.zero).get j).prevMag.toInt
  rw [Table.get_set, Table.get_set]
  split
  · decide
  · split
    · decide
    · exact (by decide : (0 : Int) ≤ (0#32).toInt ∧ (0 : Int) ≤ (0#32).toInt)
theorem witness_FluxOnsetResult : (fiveFluxes 3).mode = .running ∧ 0 < (fiveFluxes 3).nbands.toNat := by decide +kernel
theorem witness_OnsetAtStrictMaximum :
    (fiveFluxes 3).mode = .running ∧ 0 < (fiveFluxes 3).nbands.toNat ∧
      ∀ k < 5, k ≠ 1 →
        ((band (fiveFluxes 3) 0).fluxHist.get k).toInt < ((band (fiveFluxes 3) 0).fluxHist.get 1).toInt := by
  decide +kernel
theorem witness_AgcTickResult :
    (small.mode = .running ∧ 0 < { small with agcHoldcnt := 1 }.agcHoldcnt.toNat) ∧
      (small.agcHoldcnt.toNat = 0 ∧ (env small 0).val.toInt < small.agcLow.toInt ∧ small.agcStep.toNat ≠ 7) ∧
      (let s := { small with agcStep := 7, agcHigh := 0xFFFFFFFF#32 }
       ¬ ((env s 0).val.toInt < s.agcLow.toInt ∧ s.agcStep.toNat ≠ 7) ∧ s.agcHigh.toInt < (env s 0).val.toInt ∧
         s.agcStep.toNat ≠ 0) ∧
      (let s := { small with agcLow := 0 }
       ¬ (env s 0).val.toInt < s.agcLow.toInt ∧ ¬ s.agcHigh.toInt < (env s 0).val.toInt) := by decide +kernel
theorem witness_GainStaircase :
    (small.mode = .running ∧ small.agcLow.toInt ≤ small.agcHigh.toInt ∧ small.agcHoldcnt = 0 ∧
      (env small 0).val.toInt < small.agcLow.toInt ∧ small.agcStep = 0) ∧
      let s := { small with agcStep := 7, envs := Table.empty.set 0 { Env.zero with val := 0x2001#32 } }
      s.mode = .running ∧ s.agcLow.toInt ≤ s.agcHigh.toInt ∧ s.agcHoldcnt = 0 ∧
        s.agcHigh.toInt < (env s 0).val.toInt ∧ s.agcStep = 7 := by decide +kernel
theorem witness_GainBusGrowsByOneStep :
    (∃ t, step (withOp (.write .p 0#16 0x70000000#32) small) = .next t ∧ t.gainBus = [0x4001#16]) ∧
      ∃ t, step (withOp (.read .c 0x0002#16) small) = .next t :=
  ⟨⟨_, rfl, by decide +kernel⟩, ⟨_, rfl⟩⟩
theorem witness_SampleResult :
    small.mode = .running ∧ 0 < small.nbands.toNat ∧ small.nbands.toNat ≤ 1 ∧ 0 < (band small 0).size.toNat := by
  decide +kernel
theorem witness_SamplePublishes :
    (boundary.mode = .running ∧ 0 < boundary.nbands.toNat ∧ 0 < (band boundary 0).size.toNat ∧
      (band boundary 0).bankReady = true) ∧
      small.mode = .running ∧ 0 < small.nbands.toNat ∧ 0 < (band small 0).size.toNat ∧
      (band small 0).bankReady = false := by decide +kernel
theorem witness_SampleBlockTicks :
    small.mode = .running ∧ ConfigValid small ∧ 0 < small.nbands.toNat ∧
      (∀ j < (band small 0).size.toNat, (bin small 0 j).blkPos = 0) ∧ [0xFFFF#16] ≠ [] :=
  ⟨rfl, valid_of (by decide +kernel), by decide +kernel, fun _ _ => rfl, by decide⟩
theorem witness_TakeResult : small.mode = .running ∧ 0 < small.nbands.toNat ∧ small.nbands.toNat ≤ 255 := by
  decide +kernel
theorem witness_ReadyClearedOnlyByTake :
    let s := running { bandOf 4 1 with outReady := true }
    (∃ t, step (withOp (.write .c 0x0001#16 0x03010000#32) s) = .next t) ∧ s.mode = .running ∧
      (band s 0).outReady = true ∧ BusOp.write .c 0x0001#16 0x03010000#32 ≠ commandOp build (.take 0) :=
  ⟨⟨_, rfl⟩, rfl, by decide +kernel, by decide +kernel⟩

/-- R211's example: two bands at 8064.5 Hz, `[0, 80]` Hz and `[160, 250]` Hz, blocks of 100. -/
def scenario : PhysConfig build :=
  { sampleRate := 16129 / 2, bands := [⟨100, 0, 80⟩, ⟨100, 160, 250⟩], cutoff := 10, attackMs := 100, releaseMs := 1000,
    low := none, high := none, hold := 8064, gainTable := none, aggNorm := false }
theorem test_bankSize : scenario.bands.map (bankSize scenario) = [1, 2] := by decide +kernel
theorem witness_LoaderChecks :
    { scenario with sampleRate := 0 }.sampleRate ≤ 0 ∧
      (0 < scenario.sampleRate ∧ ({ scenario with bands := [⟨0, 0, 80⟩] }.bands.getD 0 ⟨0, 0, 0⟩).blockLen = 0) ∧
      ({ scenario with bands := [⟨100, 160, 160⟩] }.bands.getD 0 ⟨0, 0, 0⟩).endFreq ≤
        ({ scenario with bands := [⟨100, 160, 160⟩] }.bands.getD 0 ⟨0, 0, 0⟩).startFreq ∧
      loaderCheck { scenario with bands := [⟨100, 160, 160⟩] } ≠ .none ∧
      (let c := { scenario with bands := [⟨32767, 0, 4000⟩] }
       0 < c.sampleRate ∧ (∀ pb ∈ c.bands, pb.blockLen ≠ 0 ∧ pb.startFreq < pb.endFreq) ∧ ∃ pb ∈ c.bands, 256 < bankSize c pb) ∧
      (let c := { scenario with bands := [⟨32768, 0, 1⟩] }
       (∀ pb ∈ c.bands, pb.blockLen ≠ 0 ∧ pb.startFreq < pb.endFreq) ∧ (∀ pb ∈ c.bands, bankSize c pb ≤ 256) ∧
         ∃ pb ∈ c.bands, 32767 < pb.blockLen) ∧
      (let c := { scenario with bands := List.replicate 9 ⟨32767, 0, 1⟩ }
       (∀ pb ∈ c.bands, pb.blockLen ≠ 0 ∧ pb.startFreq < pb.endFreq) ∧ (∀ pb ∈ c.bands, bankSize c pb ≤ 256) ∧
         (∀ pb ∈ c.bands, pb.blockLen ≤ 32767) ∧ 8 < c.bands.length) ∧
      { scenario with bands := [] }.bands.length = 0 := by decide +kernel
/-- `scenario` with its own thresholds and gain table. -/
def scenarioOwn : PhysConfig build :=
  { scenario with low := some 1, high := some 2, gainTable := some (Vector.replicate 8 0x10000#32) }
theorem witness_LoaderConfigures :
    (loaderCheck scenario = .none ∧ 0 < scenario.bands.length ∧ scenario.gainTable = none) ∧
      loaderCheck scenarioOwn = .none ∧ scenarioOwn.gainTable = some (Vector.replicate 8 0x10000#32) := by decide +kernel
/-- R263 (4): after `INIT` the loader reads `STATUS`; RUNNING with no cause is success, a failed block or a recorded cause is not. -/
theorem test_loader_reads_status :
    (loaderProgram scenario ⟨[], 0, 0, 0⟩).getLast? = some (.rd .p .status) ∧
      startUpSucceeded (p := build) 0x00000001#32 = true ∧ startUpSucceeded (p := build) 0x00000502#32 = false ∧
      startUpSucceeded (p := build) 0x00000A01#32 = false := by decide +kernel
theorem witness_BuildFormat :
    build.FormatLegal ∧ { W := 40, F := 37 : Build }.FormatLegal ∧ fxfromint build (build.NMAX : Nat) = build.NMAX * build.ONE ∧
      fxfromint build ((build.NMAX + 1 : Nat) : Int) ≠ (build.NMAX + 1 : Nat) * build.ONE := by decide +kernel

/-! ### Another build (R8): one with four envelopes and a window of seven -/

/-- R8: the build with `NE = 4` and `WIN = 7`. -/
abbrev fourEnvelopes : Build := { NE := 4, WIN := 7 }
theorem test_build_legal : fourEnvelopes.Legal := by decide
theorem test_build_envUpd :
    ∃ t, execAt (.envUpd 3) { resetState fourEnvelopes with mode := .running, a := 5#32 } = .next t ∧
      (env t 3).val = 5#32 ∧ t.cause = .none := ⟨_, rfl, by decide +kernel, by decide +kernel⟩
theorem test_build_map :
    decodeAddr fourEnvelopes 0x002E#16 = some (.envVal 3) ∧ decodeAddr build 0x002E#16 = none ∧
      decodeAddr fourEnvelopes 0x100E#16 = some (.fluxHist 0 6) := by decide

end Sys2Proof.Tests
end

/-! SUPPORT and proofs: the register map, reads and writes (spec/20_memory.md R62 to R65). -/

section
open Sys2Proof Sys2Proof.Config

namespace Sys2Proof.Machine

/-! ### The register map (R62): the register at an address -/

section
variable {p : Build}

/-- R62: below the band pages an address is decoded as it stands. -/
theorem decodeAddr_addr_of_low {reg : Reg} (haddr : reg.address < 0x1000)
    (hdec : decodeLow p reg.address = some reg) : decodeAddr p reg.addr = some reg := by
  have hn : reg.addr.toNat = reg.address := by unfold Reg.addr; rw [BitVec.toNat_ofNat]; omega
  unfold decodeAddr
  rw [hn, if_pos haddr, hdec]

/-- R62: `0x1000 * (b + 1)` is the base of band `b`'s page. -/
theorem decodeAddr_addr_of_page (hp : p.MapFits) {reg : Reg} {b off : Nat} (hb : b < p.MAXBANDS)
    (haddr : reg.address = 0x1000 * (b + 1) + off) (hoff : off < 0x1000)
    (hdec : decodePage p b off = some reg) : decodeAddr p reg.addr = some reg := by
  obtain ⟨-, hbands, -⟩ := hp
  have hn : reg.addr.toNat = 0x1000 * (b + 1) + off := by unfold Reg.addr; rw [BitVec.toNat_ofNat]; omega
  have hpage : (0x1000 * (b + 1) + off) / 0x1000 - 1 = b := by omega
  have hrest : (0x1000 * (b + 1) + off) % 0x1000 = off := by omega
  unfold decodeAddr
  rw [hn, hpage, hrest, if_neg (by omega), if_pos hb, hdec]

/-- R62: the registers from `CMD` to `NBANDS`. -/
theorem decodeLow_first {n : Nat} (hn : n < 0x000A) :
    decodeLow p n =
      [Reg.cmd, .ccmd, .status, .regA, .regB, .regR, .regT, .sampleIn, .ctrl, .nbands][n]? := by
  unfold decodeLow
  rw [if_neg (by omega), if_neg (by omega)]
  interval_cases n <;> rfl

/-- R62: the two registers of the bias tracker. -/
theorem decodeLow_dcb {n : Nat} (h0 : 0x0010 ≤ n) (hn : n < 0x0012) :
    decodeLow p n = [Reg.dcbA0, .dcbBias][n - 0x0010]? := by
  unfold decodeLow
  rw [if_neg (by omega), if_neg (by omega)]
  interval_cases n <;> rfl

/-- R62: the three registers of an envelope that is built. -/
theorem decodeLow_env (hp : p.CapacitiesLegal) {e i : Nat} (he : e < p.NE) (hi : i < 3) :
    decodeLow p (0x0020 + i + 4 * e) = [Reg.envAtk e, .envRel e, .envVal e][i]? := by
  obtain ⟨-, hle, -⟩ := hp
  have hdiv : (0x0020 + i + 4 * e - 0x0020) / 4 = e := by omega
  have hmod : (0x0020 + i + 4 * e - 0x0020) % 4 = i := by omega
  unfold decodeLow
  rw [if_pos (by omega), hdiv, hmod, if_pos he]
  match i with
  | 0 | 1 | 2 => rfl

/-- R62: the controller's registers but its gain table. -/
theorem decodeLow_agc (hp : p.MapFits) {n : Nat} (h0 : 0x0040 ≤ n) (hn : n < 0x0046) :
    decodeLow p n = [Reg.agcLow, .agcHigh, .agcHold, .agcHoldcnt, .agcStep, .agcSwgain][n - 0x0040]? := by
  obtain ⟨-, -, -, -, henv⟩ := hp
  unfold decodeLow
  rw [if_neg (by omega), if_neg (by omega)]
  interval_cases n <;> rfl

/-- R62: the gain table. -/
theorem decodeLow_agcSwtab (hp : p.MapFits) {k : Nat} (hk : k < 8) :
    decodeLow p (0x0048 + k) = some (.agcSwtab k) := by
  obtain ⟨-, -, -, -, henv⟩ := hp
  unfold decodeLow
  rw [if_neg (by omega), if_pos (by omega), Nat.add_sub_cancel_left]

/-- R62: the last word sent on the gain bus. -/
theorem decodeLow_gbusLast (hp : p.MapFits) : decodeLow p 0x0050 = some .gbusLast := by
  obtain ⟨-, -, -, -, henv⟩ := hp
  unfold decodeLow
  rw [if_neg (by omega), if_neg (by decide)]
  rfl

/-- R62: the registers at the start of a band's page. -/
theorem decodePage_first {b off : Nat} (hoff : off < 0x006) :
    decodePage p b off =
      [Reg.blockLen b, .size b, .magScaler b, .sizeScaler b, .wrIdx b, .bankRdy b][off]? := by
  unfold decodePage
  rw [if_neg (by omega), if_neg (by omega)]
  interval_cases off <;> rfl

/-- R62: the slots of the flux history. -/
theorem decodePage_fluxHist (hp : p.CapacitiesLegal) {b k : Nat} (hk : k < p.WIN) :
    decodePage p b (0x008 + k) = some (.fluxHist b k) := by
  obtain ⟨-, -, -, -, hwin⟩ := hp
  unfold decodePage
  rw [if_neg (by omega), if_pos (by omega), Nat.add_sub_cancel_left]

/-- R62: a band's published results and the consumer's copies of them. -/
theorem decodePage_out (hp : p.CapacitiesLegal) {b off : Nat} (h0 : 0x010 ≤ off) (hoff : off < 0x017) :
    decodePage p b off =
      [Reg.outMag b, .outOnset b, .outReady b, .outOverrun b, .tkMag b, .tkOnset b, .tkReady b][off - 0x010]? := by
  obtain ⟨-, -, -, -, hwin⟩ := hp
  unfold decodePage
  rw [if_neg (by omega), if_neg (by omega)]
  interval_cases off <;> rfl

/-- R62: the seven bin arrays of a band, each on its own 0x100 words. -/
theorem decodePage_bin (hp : p.MapFits) {b i j : Nat} (hi : i < 7) (hj : j < p.MAXBINS) :
    decodePage p b (0x100 * (i + 1) + j) =
      [Reg.coef b j, .q0 b j, .q1 b j, .q2 b j, .mag b j, .prevMag b j, .blkPos b j][i]? := by
  obtain ⟨-, -, -, hbins, -⟩ := hp
  have hdiv : (0x100 * (i + 1) + j) / 0x100 = i + 1 := by omega
  have hmod : (0x100 * (i + 1) + j) % 0x100 = j := by omega
  unfold decodePage
  rw [if_pos (by omega), hdiv, hmod, if_pos hj]
  match i with
  | 0 | 1 | 2 | 3 | 4 | 5 | 6 => rfl

/-- R62: the register arrays of a band's bins, addressed as the map lists them. -/
theorem decodeAddr_addr_of_bin (hp : p.MapFits) {reg : Reg} {b j : Nat} (i : Nat) (hi : i < 7)
    (h : b < p.MAXBANDS ∧ j < p.MAXBINS) (haddr : reg.address = 0x1000 * (b + 1) + 0x100 * (i + 1) + j)
    (hreg : [Reg.coef b j, .q0 b j, .q1 b j, .q2 b j, .mag b j, .prevMag b j, .blkPos b j][i]? = some reg) :
    decodeAddr p reg.addr = some reg := by
  obtain ⟨hb, hj⟩ := h
  have hbins : p.MAXBINS ≤ 256 := by obtain ⟨-, -, -, hbins, -⟩ := hp; exact hbins
  exact decodeAddr_addr_of_page hp hb (haddr.trans (Nat.add_assoc _ _ _)) (by omega)
    ((decodePage_bin hp hi hj).trans hreg)

/-- R62: every register the map has is found at its address. -/
theorem decodeAddr_addr (hc : p.CapacitiesLegal) (hp : p.MapFits) {reg : Reg} (h : reg.isMapped p = true) :
    decodeAddr p reg.addr = some reg := by
  have hlow : p.WIN ≤ 7 ∧ p.NE ≤ 8 := by
    obtain ⟨-, hne, -, -, hwin⟩ := hc
    obtain ⟨-, -, -, -, henv⟩ := hp
    exact ⟨hwin, Nat.le_trans hne henv⟩
  cases reg <;> simp only [Reg.isMapped, Bool.and_eq_true, decide_eq_true_eq] at h
  case cmd | ccmd | status | regA | regB | regR | regT | sampleIn | ctrl | nbands =>
    exact decodeAddr_addr_of_low (by decide) (decodeLow_first (by decide))
  case dcbA0 | dcbBias => exact decodeAddr_addr_of_low (by decide) (decodeLow_dcb (by decide) (by decide))
  case agcLow | agcHigh | agcHold | agcHoldcnt | agcStep | agcSwgain =>
    exact decodeAddr_addr_of_low (by decide) (decodeLow_agc hp (by decide) (by decide))
  case envAtk e => exact decodeAddr_addr_of_low (by simp only [Reg.address]; omega) (decodeLow_env hc (i := 0) h (by decide))
  case envRel e => exact decodeAddr_addr_of_low (by simp only [Reg.address]; omega) (decodeLow_env hc (i := 1) h (by decide))
  case envVal e => exact decodeAddr_addr_of_low (by simp only [Reg.address]; omega) (decodeLow_env hc (i := 2) h (by decide))
  case agcSwtab k => exact decodeAddr_addr_of_low (by simp only [Reg.address]; omega) (decodeLow_agcSwtab hp h)
  case gbusLast => exact decodeAddr_addr_of_low (by decide) (decodeLow_gbusLast hp)
  case blockLen b => exact decodeAddr_addr_of_page hp (off := 0) h rfl (by decide) (decodePage_first (by decide))
  case size | magScaler | sizeScaler | wrIdx | bankRdy =>
    exact decodeAddr_addr_of_page hp h rfl (by decide) (decodePage_first (by decide))
  case outMag | outOnset | outReady | outOverrun | tkMag | tkOnset | tkReady =>
    exact decodeAddr_addr_of_page hp h rfl (by decide) (decodePage_out hc (by decide) (by decide))
  case fluxHist b k =>
    exact decodeAddr_addr_of_page hp h.1 (Nat.add_assoc _ _ _) (by omega) (decodePage_fluxHist hc h.2)
  case coef => exact decodeAddr_addr_of_bin hp 0 (by decide) h rfl rfl
  case q0 => exact decodeAddr_addr_of_bin hp 1 (by decide) h rfl rfl
  case q1 => exact decodeAddr_addr_of_bin hp 2 (by decide) h rfl rfl
  case q2 => exact decodeAddr_addr_of_bin hp 3 (by decide) h rfl rfl
  case mag => exact decodeAddr_addr_of_bin hp 4 (by decide) h rfl rfl
  case prevMag => exact decodeAddr_addr_of_bin hp 5 (by decide) h rfl rfl
  case blkPos => exact decodeAddr_addr_of_bin hp 6 (by decide) h rfl rfl

/-- R62: below the band pages an address names only a register the map has there. -/
theorem isMapped_of_decodeLow {n : Nat} {reg : Reg} (h : decodeLow p n = some reg) :
    reg.isMapped p = true ∧ reg.address = n := by
  unfold decodeLow at h
  split at h
  next henv =>
    split at h
    next he =>
      split at h <;> cases h
      all_goals exact ⟨decide_eq_true he, by simp only [Reg.address]; omega⟩
    next => cases h
  next =>
    split at h
    next hk =>
      cases h
      exact ⟨decide_eq_true (by omega), by simp only [Reg.address]; omega⟩
    next => split at h <;> cases h <;> exact ⟨rfl, rfl⟩

/-- R62: a band's page names only registers of that band, each at its offset. -/
theorem isMapped_of_decodePage {b off : Nat} {reg : Reg} (hb : b < p.MAXBANDS) (h : decodePage p b off = some reg) :
    reg.isMapped p = true ∧ reg.address = 0x1000 * (b + 1) + off := by
  unfold decodePage at h
  split at h
  next =>
    split at h
    next hj =>
      split at h <;> cases h
      all_goals exact ⟨by simp only [Reg.isMapped, hb, hj, decide_true, Bool.and_self], by simp only [Reg.address]; omega⟩
    next => cases h
  next =>
    split at h
    next hk =>
      cases h
      exact ⟨by simp only [Reg.isMapped, Bool.and_eq_true, decide_eq_true_eq]; omega, by simp only [Reg.address]; omega⟩
    next => split at h <;> cases h <;> exact ⟨decide_eq_true hb, rfl⟩

/-- R62: an address names only a register the map has, at that register's address. -/
theorem isMapped_of_decodeAddr {addr : Addr} {reg : Reg} (h : decodeAddr p addr = some reg) :
    reg.isMapped p = true ∧ reg.address = addr.toNat := by
  unfold decodeAddr at h
  split at h
  next => exact isMapped_of_decodeLow h
  next =>
    split at h
    next hb =>
      obtain ⟨hmapped, haddr⟩ := isMapped_of_decodePage hb h
      exact ⟨hmapped, by omega⟩
    next => cases h

end

/-- R62: the rows of registers that the map has, each found at its address. -/
theorem map_decodeAddr_addr {regs : List Reg} (h : ∀ reg ∈ regs, reg.isMapped build = true) :
    regs.map (fun reg => decodeAddr build reg.addr) = regs.map some :=
  List.map_congr_left fun reg hreg => decodeAddr_addr (by decide) (by decide) (h reg hreg)

/-! ### The classes of the registers (R62, R63) -/

theorem regClass_eq_operand_iff (reg : Reg) : reg.regClass = .operand ↔ reg ∈ [Reg.regA, .regB, .sampleIn] := by
  cases reg <;> simp [Reg.regClass]

theorem regClass_eq_configuration_iff (reg : Reg) :
    reg.regClass = .configuration ↔
      reg ∈ [Reg.ctrl, .nbands, .dcbA0, .agcLow, .agcHigh, .agcHold] ∨
        (∃ e, reg = .envAtk e ∨ reg = .envRel e) ∨ (∃ k, reg = .agcSwtab k) ∨
        ∃ b, reg = .blockLen b ∨ reg = .size b ∨ ∃ j, reg = .coef b j := by
  cases reg <;> simp [Reg.regClass]

/-- R63: every class but the commands' own registers, the operands and the configuration is read-only. -/
theorem regClass_eq_readOnly {reg : Reg} (hcmd : reg ≠ .cmd) (hccmd : reg ≠ .ccmd) (hop : reg.regClass ≠ .operand)
    (hconf : reg.regClass ≠ .configuration) : reg.regClass = .readOnly := by
  cases hc : reg.regClass with
  | command q r =>
    obtain ⟨h, -⟩ | ⟨h, -⟩ := regClass_command hc
    · exact absurd h hcmd
    · exact absurd h hccmd
  | operand => exact absurd hc hop
  | configuration => exact absurd hc hconf
  | readOnly => rfl

/-- Settles O8: each row follows from `decodeAddr_addr`, that a register of the map is found at its address. -/
theorem addressMapRows : Obligations.AddressMapRows := by
  refine ⟨by decide, fun k hk => ?_, fun b hb => ?_, fun b hb k hk => ?_, fun b hb j hj => ?_,
    fun _ _ h => isMapped_of_decodeAddr h, rfl, rfl, fun reg => ⟨regClass_eq_operand_iff reg,
      regClass_eq_configuration_iff reg, regClass_eq_readOnly⟩⟩
  · exact decodeAddr_addr (reg := .agcSwtab k) (by decide) (by decide) (decide_eq_true hk)
  · exact map_decodeAddr_addr (regs := [.blockLen b, .size b, .magScaler b, .sizeScaler b, .wrIdx b, .bankRdy b, .outMag b,
      .outOnset b, .outReady b, .outOverrun b, .tkMag b, .tkOnset b, .tkReady b]) (by simp [Reg.isMapped, hb])
  · exact decodeAddr_addr (reg := .fluxHist b k) (by decide) (by decide) (by simp [Reg.isMapped, hb, hk])
  · exact map_decodeAddr_addr (regs := [.coef b j, .q0 b j, .q1 b j, .q2 b j, .mag b j, .prevMag b j, .blkPos b j])
      (by simp [Reg.isMapped, hb, hj])

/-! ### What a register reads as (R64) -/

theorem toNat_bitWord (x : Bool) : (bitWord build x).toNat = if x then 1 else 0 := by
  cases x <;> rfl

theorem toNat_bitWord_le (x : Bool) : (bitWord build x).toNat ≤ 1 := by
  rw [toNat_bitWord]; split <;> decide

/-- R64: a register narrower than a word is zero-extended. -/
theorem toNat_setWidth_word {w : Nat} (hw : w ≤ 32) (v : BitVec w) : (v.setWidth build.W).toNat = v.toNat :=
  BitVec.toNat_setWidth_of_le hw

/-! ### The step of a read and of a write (R64, R65) -/

section
variable {p : Build}

/-- R232: recording an error keeps the first cause since reset. -/
theorem raiseErr_eq_firstCause (c : Cause) (s : StateOf p) : raiseErr c s = { s with cause := firstCause s.cause c } :=
  raiseErr_eq c s

theorem regRead_of_mapped {addr : Addr} {reg : Reg} (h : decodeAddr p addr = some reg) (s : StateOf p) :
    regReadValue addr s = readReg s reg ∧ regReadState addr s = s := by
  simp [regReadValue, regReadState, h]

theorem regRead_of_unmapped {addr : Addr} (h : decodeAddr p addr = none) (s : StateOf p) :
    regReadValue addr s = 0 ∧ regReadState addr s = { s with cause := firstCause s.cause .busAddr } := by
  simp [regReadValue, regReadState, h, raiseErr_eq_firstCause]

theorem regWrite_of_unmapped (run : Commands p) (port : Port) {addr : Addr} (v : WordOf p) (s : StateOf p)
    (h : decodeAddr p addr = none) :
    regWrite run port addr v s = .next { s with cause := firstCause s.cause .busAddr } := by
  simp [regWrite, h, raiseErr_eq_firstCause]

/-- R65: a write to a command register on its port runs the command. -/
theorem regWrite_of_command (run : Commands p) {port : Port} {addr : Addr} {reg : Reg} {creg : CmdReg} (v : WordOf p)
    (s : StateOf p) (h : decodeAddr p addr = some reg) (hc : reg.regClass = .command port creg) :
    regWrite run port addr v s = issue run creg v s := by
  simp [regWrite, h, hc]

/-- R65: the writes that store their word. -/
def Stores (port : Port) (reg : Reg) (m : Mode) : Prop :=
  port = .p ∧ (reg.regClass = .operand ∨ reg.regClass = .configuration ∧ m = .unconfigured)

theorem regWrite_of_stores (run : Commands p) {port : Port} {addr : Addr} {reg : Reg} (v : WordOf p) {s : StateOf p}
    (h : decodeAddr p addr = some reg) (hs : Stores port reg s.mode) :
    regWrite run port addr v s = .next (storeReg reg v s) := by
  obtain ⟨hp, hc | ⟨hc, hm⟩⟩ := hs
  · simp [regWrite, h, hc, hp]
  · simp [regWrite, h, hc, hp, hm]

/-- R65: a write that neither runs a command nor stores records `BUS_ACCESS`. -/
theorem regWrite_of_denied (run : Commands p) {port : Port} {addr : Addr} {reg : Reg} (v : WordOf p) {s : StateOf p}
    (h : decodeAddr p addr = some reg) (hcmd : ¬ (reg = .cmd ∧ port = .p)) (hccmd : ¬ (reg = .ccmd ∧ port = .c))
    (hs : ¬ Stores port reg s.mode) :
    regWrite run port addr v s = .next { s with cause := firstCause s.cause .busAccess } := by
  rw [← raiseErr_eq_firstCause]
  obtain ⟨r, q, creg, hr, hc, hq, -⟩ | ⟨r, hr, hp, hc, -⟩ | ⟨hr, -⟩ | ⟨-, hw⟩ := regWrite_cases run port addr v s
  · cases h.symm.trans hr
    obtain ⟨hreg, hport, -⟩ | ⟨hreg, hport, -⟩ := regClass_command hc
    · exact absurd ⟨hreg, hq.trans hport⟩ hcmd
    · exact absurd ⟨hreg, hq.trans hport⟩ hccmd
  · cases h.symm.trans hr
    exact absurd ⟨hp, hc⟩ hs
  · cases h.symm.trans hr
  · exact hw

end

/-- R12, R70: the step that performs a read. -/
theorem step_of_read {s : State} {port : Port} {addr : Addr} {rest : List (BusOp build)}
    (h : s.pending = .read port addr :: rest) :
    step s = .next (answer port addr (regReadValue addr { s with pending := rest })
      (regReadState addr { s with pending := rest })) := by
  unfold step hostStep
  rw [h]
  rfl

/-- R12, R70: the step that performs a write. -/
theorem step_of_write {s : State} {port : Port} {addr : Addr} {v : Word} {rest : List (BusOp build)}
    (h : s.pending = .write port addr v :: rest) :
    step s = regWrite exec port addr v { s with pending := rest } := by
  unfold step hostStep
  rw [h]
  rfl

/-- Settles O7: the step of a read, and each register's read by the equation of `readReg` for it. -/
theorem readAnswersAndChangesNothing : Obligations.ReadAnswersAndChangesNothing := by
  refine ⟨fun s port addr rest h => ⟨fun reg hreg => ?_, fun hnone => ?_⟩, fun s b => ?_⟩
  · obtain ⟨hvalue, hstate⟩ := regRead_of_mapped hreg { s with pending := rest }
    rw [step_of_read h, hvalue, hstate]
    rfl
  · obtain ⟨hvalue, hstate⟩ := regRead_of_unmapped hnone { s with pending := rest }
    rw [step_of_read h, hvalue, hstate]
    rfl
  · have hstep : (readReg s .agcStep).toNat = s.agcStep.toNat := toNat_setWidth_word (by decide) _
    have hlast : (readReg s .gbusLast).toNat = s.gbusLast.toNat := toNat_setWidth_word (by decide) _
    have hsample : (readReg s .sampleIn).toNat = s.sampleIn.toNat := toNat_setWidth_word (by decide) _
    refine ⟨?_, by omega, by omega, ⟨rfl, rfl⟩, ⟨rfl, rfl, rfl, toNat_bitWord _⟩,
      ⟨hsample, toNat_bitWord _, rfl, rfl, rfl⟩, fun e => ⟨rfl, rfl, rfl⟩,
      ⟨rfl, rfl, rfl, rfl, hstep, rfl, fun k => rfl, hlast⟩,
      ⟨rfl, rfl, rfl, rfl, rfl, toNat_bitWord _, fun k => rfl⟩,
      ⟨rfl, toNat_bitWord _, toNat_bitWord _, rfl, rfl, toNat_bitWord _, toNat_bitWord _⟩,
      fun j => ⟨rfl, rfl, rfl, rfl, rfl, rfl, rfl⟩⟩
    simp only [List.forall_mem_cons, List.not_mem_nil, false_imp_iff, implies_true, and_true]
    exact ⟨toNat_bitWord_le _, toNat_bitWord_le _, toNat_bitWord_le _, toNat_bitWord_le _, toNat_bitWord_le _,
      toNat_bitWord_le _, toNat_bitWord_le _⟩

/-! ### What a stored word changes (R65) -/

section
variable {p : Build}

/-- R65: a stored word leaves every other register. A register array's cell is read through its table, so the cells of the
array itself are told apart by their indices, and the other fields of the written band or envelope are carried over. -/
theorem readReg_storeReg_other {reg reg' : Reg} (h : reg' ≠ reg) (v : WordOf p) (s : StateOf p) :
    readReg (storeReg reg v s) reg' = readReg s reg' := by
  cases reg
  case regA | regB | sampleIn | ctrl | nbands | dcbA0 | agcLow | agcHigh | agcHold =>
    cases reg' <;> first | rfl | exact absurd rfl h
  case agcSwtab k =>
    cases reg'
    case agcSwtab k' => exact Table.get_set_other _ _ fun hk => h (congrArg Reg.agcSwtab hk)
    all_goals rfl
  case envAtk | envRel =>
    cases reg'
    case envAtk | envRel | envVal =>
      simp only [storeReg, readReg, env_writeEnv]
      split <;> simp_all
    all_goals rfl
  case blockLen | size | coef =>
    cases reg'
    case blockLen | size | magScaler | sizeScaler | wrIdx | bankRdy | fluxHist | outMag | outOnset | outReady | outOverrun |
        tkMag | tkOnset | tkReady | coef | q0 | q1 | q2 | mag | prevMag | blkPos =>
      simp only [storeReg, readReg, bin_eq, band_writeBand]
      grind [Table.get_set]
    all_goals rfl
  all_goals rfl

/-- R65: nothing but the register itself changes. -/
theorem storeReg_frameExcept (reg : Reg) (v : WordOf p) (s : StateOf p) :
    FrameExcept (· = reg) s (storeReg reg v s) := by
  refine ⟨fun reg' h => readReg_storeReg_other h v s, ?_⟩
  obtain ⟨a, b, raw, norm, nbands, a0, envs, bands, low, high, hold, tab, h⟩ := storeReg_frame reg v s
  rw [h]
  exact ⟨rfl, rfl, rfl⟩

/-- R65: an operand or configuration register of a word's width reads as the word stored last. -/
theorem readReg_storeReg_same {reg : Reg} (hc : reg.regClass = .operand ∨ reg.regClass = .configuration)
    (hsample : reg ≠ .sampleIn) (hctrl : reg ≠ .ctrl) (v : WordOf p) (s : StateOf p) :
    readReg (storeReg reg v s) reg = v := by
  cases reg
  case sampleIn => exact absurd rfl hsample
  case ctrl => exact absurd rfl hctrl
  case regA | regB | nbands | dcbA0 | agcLow | agcHigh | agcHold => rfl
  case agcSwtab => exact Table.get_set_same _ _ _
  case envAtk | envRel => simp only [storeReg, readReg, env_writeEnv_same]
  case blockLen | size => simp only [storeReg, readReg, band_writeBand_same]
  case coef => simp only [storeReg, readReg, bin_eq, band_writeBand_same, Table.get_set_same]
  all_goals simp [Reg.regClass] at hc

end

/-- R65: `SAMPLE_IN` keeps the low `ADC_BITS` bits. -/
theorem toNat_readReg_storeReg_sampleIn (v : Word) (s : State) :
    (readReg (storeReg .sampleIn v s) .sampleIn).toNat = v.toNat % 2 ^ 16 :=
  (toNat_setWidth_word (by decide) _).trans (BitVec.toNat_setWidth _ _)

/-- R65: `CTRL` keeps bit 0. -/
theorem toNat_readReg_storeReg_ctrl (v : Word) (s : State) :
    (readReg (storeReg .ctrl v s) .ctrl).toNat = v.toNat % 2 := by
  have hbit : v.getLsbD 0 = decide (v.toNat % 2 = 1) := by simp [BitVec.getLsbD]
  show (bitWord build (v.getLsbD 0)).toNat = _
  rw [toNat_bitWord, hbit]
  split <;> simp_all

/-- Settles O10: a write stores, runs a command, or only records an error, in the cases of R65. -/
theorem writeRule : Obligations.WriteRule := by
  intro s port addr v rest h
  rw [step_of_write h]
  refine ⟨regWrite_of_unmapped exec port v _, fun reg hreg => ⟨?_, ?_, fun hstores => ?_, ?_⟩⟩
  · rintro ⟨rfl, rfl⟩
    exact regWrite_of_command exec v _ hreg rfl
  · rintro ⟨rfl, rfl⟩
    exact regWrite_of_command exec v _ hreg rfl
  · refine ⟨storeReg reg v { s with pending := rest }, regWrite_of_stores exec v hreg hstores,
      storeReg_frameExcept reg v _, ?_⟩
    obtain ⟨-, hclass⟩ := hstores
    split
    next hsample => rw [hsample, toNat_readReg_storeReg_sampleIn]
    next hsample =>
      split
      next hctrl => rw [hctrl, toNat_readReg_storeReg_ctrl]
      next hctrl => rw [readReg_storeReg_same (hclass.imp_right And.left) hsample hctrl]
  · rintro ⟨hcmd, hccmd, hstores⟩
    exact regWrite_of_denied exec v hreg hcmd hccmd hstores

end Sys2Proof.Machine
end

/-! SUPPORT and proofs: words that are no command, and the mode and index checks of a command (spec/30_encoding.md R90 to R96). -/

section
open Sys2Proof Sys2Proof.Config

namespace Sys2Proof.Machine

/-! ### The decoder read backwards (R91 to R93) -/

theorem rowPlain_eq_some_iff {u j : Nat} {i i' : Instr} : rowPlain u j i = some i' ↔ u = 0 ∧ j = 0 ∧ i = i' := by
  simp [rowPlain, and_assoc]

theorem rowUnit_eq_some_iff {u j : Nat} {i : Nat → Instr} {i' : Instr} : rowUnit u j i = some i' ↔ j = 0 ∧ i u = i' := by
  simp [rowUnit]

/-- R93: the command's row is that of the operation code `op` at the register `reg`, and its fields `u` and `j` are these. -/
def HasFields (reg : CmdReg) (op u j : Nat) (i : Instr) : Prop :=
  i.cmdReg = reg ∧ i.op = op ∧ i.u = u ∧ i.j = j

/-- R93: a row of `CMD` fixes both fields at zero, fixes `j` alone, or, `GZ.UPD`'s, fixes none.
The cases are the rows of `decodeCmd` in their order: row 13 is `GZ.UPD`'s, rows 12 and 14 to 17 have a unit's index. -/
theorem hasFields_of_decodeCmd {op u j : Nat} {i : Instr} (h : decodeCmd op u j = some i) : HasFields .cmd op u j i := by
  unfold decodeCmd at h
  split at h
  case h_13 => cases h; exact ⟨rfl, rfl, rfl, rfl⟩
  case h_12 | h_14 | h_15 | h_16 | h_17 =>
    obtain ⟨rfl, rfl⟩ := rowUnit_eq_some_iff.1 h
    exact ⟨rfl, rfl, rfl, rfl⟩
  case h_19 => cases h
  all_goals
    obtain ⟨rfl, rfl, rfl⟩ := rowPlain_eq_some_iff.1 h
    exact ⟨rfl, rfl, rfl, rfl⟩

/-- R93: the one row of `CCMD` is `TAKE`'s. -/
theorem hasFields_of_decodeCcmd {op u j : Nat} {i : Instr} (h : decodeCcmd op u j = some i) : HasFields .ccmd op u j i := by
  unfold decodeCcmd at h
  split at h
  next =>
    obtain ⟨rfl, rfl⟩ := rowUnit_eq_some_iff.1 h
    exact ⟨rfl, rfl, rfl, rfl⟩
  next => cases h

/-- R91, R93: a word that decodes has its last byte zero and the fields of the command. -/
theorem hasFields_of_decode {reg : CmdReg} {cw : BitVec 32} {i : Instr} (h : decode reg cw = some i) :
    zField cw = 0 ∧ HasFields reg (opField cw) (uField cw) (jField cw) i := by
  unfold decode at h
  split at h
  next hz =>
    cases reg with
    | cmd => exact ⟨hz, hasFields_of_decodeCmd h⟩
    | ccmd => exact ⟨hz, hasFields_of_decodeCcmd h⟩
  next => cases h

/-- R91, R92: a command is well-formed exactly when its fields `u` and `j` hold 8 bits each. -/
theorem wellFormed_iff (i : Instr) : i.wellFormed = true ↔ i.u < 256 ∧ i.j < 256 := by
  cases i <;> simp [Instr.wellFormed, fitsIndexField, Instr.u, Instr.j]

/-- R91: the four fields make up the whole word. -/
theorem fields_toNat (cw : BitVec 32) :
    opField cw * 2 ^ 24 + uField cw * 2 ^ 16 + jField cw * 2 ^ 8 + zField cw = cw.toNat := by
  have hcw : cw.toNat < 2 ^ 32 := cw.isLt
  simp only [opField, uField, jField, zField, slice]
  omega

/-- R91 to R94: a word that decodes at a register encodes a well-formed command of that register. -/
theorem encode_of_decode {reg : CmdReg} {cw : BitVec 32} {i : Instr} (h : decode reg cw = some i) :
    i.wellFormed = true ∧ i.cmdReg = reg ∧ encode i = cw := by
  obtain ⟨hz, hreg, hop, hu, hj⟩ := hasFields_of_decode h
  have hfields := fields_toNat cw
  refine ⟨(wellFormed_iff i).2 ⟨?_, ?_⟩, hreg, ?_⟩
  · rw [hu]; exact Nat.mod_lt _ (by decide)
  · rw [hj]; exact Nat.mod_lt _ (by decide)
  · rw [hz, Nat.add_zero] at hfields
    rw [encode, hop, hu, hj, hfields, BitVec.ofNat_toNat, BitVec.setWidth_eq]

/-! ### The step of a write to a command register (R90, R94) -/

/-- R63, R90: the host's write of a word to a command register, on its port, issues the word there. -/
theorem step_of_commandWrite {s : State} {reg : CmdReg} {cw : BitVec 32} {rest : List (BusOp build)}
    (h : s.pending = .write (commandPort reg) (commandAddr reg) cw :: rest) :
    step s = issue exec reg cw { s with pending := rest } := by
  rw [step_of_write h]
  cases reg with
  | cmd => exact regWrite_of_command exec (reg := .cmd) cw _ rfl rfl
  | ccmd => exact regWrite_of_command exec (reg := .ccmd) cw _ rfl rfl

/-- R94: a word that decodes to no command records `CMD_ILLEGAL`. -/
theorem issue_of_illegal (run : Commands build) {reg : CmdReg} {cw : Word} (h : decode reg cw = none) (s : State) :
    issue run reg cw s = .next { s with cause := firstCause s.cause .cmdIllegal } := by
  rw [issue, decodeBusWord_eq, h]
  exact congrArg Host.Outcome.next (raiseErr_eq_firstCause _ s)

/-- Settles O4: a word that decodes would be the encoding of a well-formed command, by `encode_of_decode`. -/
theorem illegalWordOnlyRecords : Obligations.IllegalWordOnlyRecords := by
  refine ⟨fun s reg cw rest hnot hpending => ?_, by decide +kernel, fun reg => by cases reg <;> decide⟩
  have hillegal : decode reg cw = none :=
    Option.eq_none_iff_forall_ne_some.2 fun i hi => hnot ⟨i, encode_of_decode hi⟩
  rw [step_of_commandWrite hpending, issue_of_illegal exec hillegal]

/-! ### Every command as its checks and its effect (R90, R95, R96) -/

section
variable {p : Build}

/-- R95: the modes a command is admitted in, as its meaning checks them. -/
def commandAdmits : Instr → Mode → Bool
  | .init => admitInit
  | .fxMul | .fxRcp | .fxAbs | .fxSqrt | .fxAdd | .fxSub | .fxFromint | .fxToint => admitAlu
  | _ => admitRunning

/-- R96: whether a command's indices are in range, as its meaning checks them. -/
def commandIndexOk (i : Instr) (s : StateOf p) : Bool :=
  match i with
  | .take b | .bankUpd b | .bankAgg b | .fluxUpd b | .fluxOnset b => bandInRange s b
  | .gzUpd b j => binInRange s b j
  | .envUpd e => envInRange p e
  | _ => true

/-- R90 (4): what a command does once both checks pass. -/
def commandEffect (i : Instr) (s : StateOf p) : StateOf p :=
  match i with
  | .init => initPipeline s
  | .sample => onSample s
  | .take b => writeBand b (band s b).take s
  | .fxMul => writeR (fxmul p (opA s) (opB s)) s
  | .fxRcp => writeR (fxrcp p (opA s)) s
  | .fxAbs => writeR (fxabs p (opA s)) s
  | .fxSqrt => writeR (fxsqrt p (opA s)) s
  | .fxAdd => writeR (fxadd p (opA s) (opB s)) s
  | .fxSub => writeR (fxsub p (opA s) (opB s)) s
  | .fxFromint => writeR (fxfromint p (opA s)) s
  | .fxToint => writeR (fxtoint p (opA s)) s
  | .dcbUpd => writeR (dcbResult s (opA s)) (dcbUpdate (opA s) s)
  | .envUpd e => writeR (envNewVal (env s e) (opA s)) (envUpdate e (opA s) s)
  | .gzUpd b j => writeT ((bin s b j).completes (band s b).blockLen) (writeBand b ((band s b).gzUpdate j (opA s)) s)
  | .bankUpd b => writeT (band s b).bankReady (writeBand b ((band s b).bankUpdate (opA s)) s)
  | .bankAgg b => writeR ((band s b).bankAgg s.aggNorm) s
  | .fluxUpd b => writeT (band s b).bankReady (writeBand b ((band s b).fluxUpdate (opA s)) s)
  | .fluxOnset b => writeT (band s b).onset s
  | .agcTick => agcTick s

/-- R90: every command is its mode check, then its index check, then its effect. -/
theorem execAt_eq_command (i : Instr) (s : StateOf p) :
    execAt i s = command (commandAdmits i) (commandIndexOk i s) (commandEffect i) s := by
  cases i <;> rfl

/-- R95: the mode check is the table of R95. -/
theorem commandAdmits_iff (i : Instr) (m : Mode) : commandAdmits i m = true ↔ Admitted i m := by
  cases i
  case init => cases m <;> simp [commandAdmits, admitInit, Admitted]
  case fxMul | fxRcp | fxAbs | fxSqrt | fxAdd | fxSub | fxFromint | fxToint =>
    cases m <;> simp [commandAdmits, admitAlu, Admitted, isFx]
  all_goals cases m <;> simp [commandAdmits, admitRunning, Admitted, isFx]

/-- R96: the index check is the ranges of R96. -/
theorem commandIndexOk_iff (i : Instr) (s : StateOf p) : commandIndexOk i s = true ↔ IndicesInRange i s := by
  cases i <;> simp [commandIndexOk, IndicesInRange, bandInRange, binInRange, envInRange]

/-! ### The cause an effect leaves (R201, R232) -/

/-- R232: an effect other than `INIT`'s records no error. -/
theorem commandEffect_cause {i : Instr} (h : i ≠ .init) (s : StateOf p) : (commandEffect i s).cause = s.cause := by
  cases i
  case init => exact absurd rfl h
  case sample =>
    obtain ⟨_, _, _, _, _, _, _, _, hsample⟩ := onSample_frame s
    rw [commandEffect, hsample]
  case agcTick =>
    obtain ⟨_, _, _, _, _, htick⟩ := agcTick_frame s
    rw [commandEffect, htick]
  all_goals rfl

/-- R201: `INIT` records a configuration error, or none. -/
theorem initPipeline_cause (s : StateOf p) :
    (initPipeline s).cause = s.cause ∨ (initPipeline s).cause ∈ [.cfgNbands, .cfgBlocklen, .cfgSize] := by
  obtain ⟨-, hinit⟩ | ⟨c, hfail, hinit⟩ := initPipeline_cases s
  · exact .inl (by rw [hinit, construct])
  · rw [hinit, raiseErr_eq_firstCause]
    by_cases hs : s.cause = .none
    · exact .inr (by simpa [firstCause, hs] using initFailure_cause hfail)
    · exact .inl (if_neg hs)

/-- R201, R232: with no error recorded before it, an effect leaves no cause but those of `INIT`'s checks. -/
theorem commandEffect_cause_mem {s : StateOf p} (hs : s.cause = .none) (i : Instr) :
    (commandEffect i s).cause ∈ [.none, .cfgNbands, .cfgBlocklen, .cfgSize] := by
  by_cases hi : i = .init
  · subst hi
    obtain h | h := initPipeline_cause s
    · simp [commandEffect, h, hs]
    · exact List.mem_cons_of_mem _ h
  · simp [commandEffect_cause hi, hs]

end

/-- R90: a command of the default build is its mode check, then its index check, then its effect. -/
theorem exec_eq_command (i : Instr) (s : State) :
    exec i s = command (commandAdmits i) (commandIndexOk i s) (commandEffect i) s := by
  rw [← execAt_build, execAt_eq_command]

/-- R95: a command that is not admitted in the mode. -/
theorem exec_of_not_admitted {i : Instr} {s : State} (h : ¬ Admitted i s.mode) :
    exec i s = .next { s with cause := firstCause s.cause .cmdMode } := by
  rw [← commandAdmits_iff, Bool.not_eq_true] at h
  rw [exec_eq_command, command_mode h, raiseErr_eq_firstCause]

/-- R96: an admitted command with an index out of range. -/
theorem exec_of_not_inRange {i : Instr} {s : State} (ha : Admitted i s.mode) (h : ¬ IndicesInRange i s) :
    exec i s = .next { s with cause := firstCause s.cause .cmdIndex } := by
  rw [← commandIndexOk_iff, Bool.not_eq_true] at h
  rw [exec_eq_command, h, command_index ((commandAdmits_iff i _).2 ha), raiseErr_eq_firstCause]

/-- R90 (4): an admitted command with its indices in range takes effect. -/
theorem exec_of_inRange {i : Instr} {s : State} (ha : Admitted i s.mode) (h : IndicesInRange i s) :
    exec i s = .next (commandEffect i s) := by
  rw [exec_eq_command, (commandIndexOk_iff i s).2 h, command_effect ((commandAdmits_iff i _).2 ha)]

/-- Settles O11: an admitted command records `CMD_INDEX`, or what its effect records. -/
theorem modeCheck : Obligations.ModeCheck := by
  refine fun i s => ⟨exec_of_not_admitted, fun ha hs => ?_⟩
  by_cases h : IndicesInRange i s
  · exact ⟨_, exec_of_inRange ha h, ne_of_mem_of_not_mem (commandEffect_cause_mem hs i) (by decide)⟩
  · exact ⟨_, exec_of_not_inRange ha h, by simp [firstCause, hs]⟩

/-- Settles O12: a command past both checks records only what its effect records. -/
theorem indexCheck : Obligations.IndexCheck :=
  fun i _ ha => ⟨exec_of_not_inRange ha, fun h hs =>
    ⟨_, exec_of_inRange ha h, ne_of_mem_of_not_mem (commandEffect_cause_mem hs i) (by decide)⟩⟩

end Sys2Proof.Machine
end

/-! SUPPORT and proofs: the results and the frames of the eight fixed-point commands (spec/40_fixedpoint_alu.md R110 to R118). -/

section
open Sys2Proof Sys2Proof.Config

namespace Sys2Proof.Machine

/-! ### Floor division by its bounds (R14) -/

/-- R14: for a positive divisor the quotient is the one integer `q` with `q * b <= a < (q + 1) * b`. -/
theorem fdiv_eq_of_bounds_pos {a b q : Int} (hb : 0 < b) (hle : q * b ≤ a) (hlt : a < (q + 1) * b) : fdiv a b = q := by
  have hlow : q ≤ a / b := (Int.le_ediv_iff_mul_le hb).2 hle
  have hhigh : a / b < q + 1 := (Int.ediv_lt_iff_lt_mul hb).2 hlt
  rw [fdiv_pos hb]
  omega

/-- R14: for a negative divisor the quotient is the one integer `q` with `(q + 1) * b < a <= q * b`. -/
theorem fdiv_eq_of_bounds_neg {a b q : Int} (hb : b < 0) (hle : a ≤ q * b) (hlt : (q + 1) * b < a) : fdiv a b = q := by
  obtain ⟨hle', hlt'⟩ := fdiv_neg_spec (a := a) hb
  have hlow : q < fdiv a b + 1 := lt_of_mul_lt_mul_of_nonpos_right (hlt'.trans_le hle) hb.le
  have hhigh : fdiv a b < q + 1 := lt_of_mul_lt_mul_of_nonpos_right (hlt.trans_le hle') hb.le
  omega

/-! ### The fixed-point functions at the numbers of the default build -/

/-- R14: saturation is the clamp the statements write out. -/
theorem sat_eq_clampWord (z : Int) : sat build z = clampWord z := sat_eq z

theorem fxrcp_zero {p : Build} : fxrcp p 0 = p.FX_MAX := if_pos rfl

/-- R112: the reciprocal of any other reading is the saturated quotient of `2^32`. -/
theorem fxrcp_of_ne_zero {a : Int} (ha : a ≠ 0) : fxrcp build a = clampWord (fdiv 4294967296 a) := by
  rw [fxrcp, if_neg ha, sat_eq_clampWord]
  rfl

/-- R113: only the absolute value of `FX_MIN` saturates. -/
theorem fxabs_eq_min {a : Int} (h : InRange a) : fxabs build a = min 2147483647 |a| := by
  obtain ⟨hmin, hmax⟩ := h
  unfold fxabs
  split
  next ha => rw [sat_eq, abs_of_neg ha]; omega
  next ha => rw [abs_of_nonneg (by omega)]; omega

/-- R114: the root of a reading that is not positive is 0. -/
theorem fxsqrt_of_nonpos {p : Build} {a : Int} (ha : a ≤ 0) : fxsqrt p a = 0 := if_pos ha

/-- R114: the root is the largest integer whose square is at most `a * ONE`. -/
theorem fxsqrt_spec {p : Build} {a : Int} (ha : 0 < a) :
    fxsqrt p a * fxsqrt p a ≤ a * p.ONE ∧ a * p.ONE < (fxsqrt p a + 1) * (fxsqrt p a + 1) := by
  obtain ⟨n, rfl⟩ := Int.eq_ofNat_of_zero_le ha.le
  have hroot : fxsqrt p n = (isqrt (n * 2 ^ p.F) : Int) := if_neg (by omega)
  have hone : p.ONE = ((2 ^ p.F : Nat) : Int) := rfl
  rw [hroot, hone]
  exact_mod_cast isqrt_spec (n * 2 ^ p.F)

/-! ### What a fixed-point command does (R95, R110) -/

/-- R95: every mode but `FAILED` admits the eight commands. -/
theorem admitted_of_isFx {i : Instr} (hfx : isFx i) {m : Mode} (hm : m ≠ .failed) : Admitted i m := by
  cases m with
  | unconfigured => exact .inr hfx
  | running => rintro rfl; simp [isFx] at hfx
  | failed => exact absurd rfl hm

/-- R110: an admitted fixed-point command writes its result, a reading in range, to `R` and changes nothing else. -/
theorem exists_word_of_isFx {i : Instr} (hfx : isFx i) {s : State} (hm : s.mode ≠ .failed) {z : Int}
    (heffect : commandEffect i s = writeR z s) (hz : InRange z) :
    ∃ w : Word, exec i s = .next { s with r := w } ∧ w.toInt = z := by
  have hindices : IndicesInRange i s := by
    rw [← commandIndexOk_iff]
    simp only [isFx, List.mem_cons, List.not_mem_nil, or_false] at hfx
    obtain rfl | rfl | rfl | rfl | rfl | rfl | rfl | rfl := hfx <;> rfl
  refine ⟨word build z, ?_, toInt_word hz⟩
  rw [exec_of_inRange (admitted_of_isFx hfx hm) hindices, heffect, writeR]

/-! ### The eight commands -/

/-- Settles O30: the root's bounds are `fxsqrt_spec` at `ONE = 65536`. -/
theorem fxSqrtResult : Obligations.FxSqrtResult := by
  refine ⟨by decide, fun s hm => ?_⟩
  obtain ⟨w, hexec, hw⟩ :=
    exists_word_of_isFx (i := .fxSqrt) (by simp [isFx]) hm rfl (fxsqrt_inRange (toInt_inRange s.a))
  refine ⟨w, hexec, ?_⟩
  rw [hw, ← ONE_eq]
  exact ⟨fxsqrt_nonneg _, fxsqrt_of_nonpos, fxsqrt_spec⟩

/-- Settles O28: the bounds on `q` make it the floor quotient, for either sign of the divisor. -/
theorem fxRcpResult : Obligations.FxRcpResult := by
  refine ⟨by decide, fun s hm => ?_⟩
  obtain ⟨w, hexec, hw⟩ := exists_word_of_isFx (i := .fxRcp) (by simp [isFx]) hm rfl (fxrcp_inRange s.a.toInt)
  refine ⟨w, hexec, fun hzero => ?_, fun q hq => ?_⟩
  · rw [hw, opA, hzero, fxrcp_zero, FX_MAX_eq]
  · obtain ⟨hpos, hle, hlt⟩ | ⟨hneg, hle, hlt⟩ := hq
    · rw [hw, opA, fxrcp_of_ne_zero hpos.ne', fdiv_eq_of_bounds_pos hpos hle hlt]
    · rw [hw, opA, fxrcp_of_ne_zero hneg.ne, fdiv_eq_of_bounds_neg hneg hle hlt]

/-- Settles O27: the product is exact, and its floor over `2^16` saturates. -/
theorem fxMulResult : Obligations.FxMulResult := by
  refine ⟨by decide, fun s hm => ?_⟩
  rw [← sat_eq_clampWord, ← fxmul_eq]
  exact exists_word_of_isFx (by simp [isFx]) hm rfl (fxmul_inRange _ _)

/-- Settles O29, by `fxabs_eq_min`. -/
theorem fxAbsResult : Obligations.FxAbsResult := by
  refine ⟨by decide, fun s hm => ?_⟩
  have ha := toInt_inRange s.a
  rw [← fxabs_eq_min ha]
  exact exists_word_of_isFx (by simp [isFx]) hm rfl (fxabs_inRange ha)

/-- Settles O31: the sum is exact and then saturates. -/
theorem fxAddResult : Obligations.FxAddResult := by
  refine ⟨by decide, fun s hm => ?_⟩
  rw [← sat_eq_clampWord]
  exact exists_word_of_isFx (by simp [isFx]) hm rfl (fxadd_inRange _ _)

/-- Settles O32: the difference is exact and then saturates. -/
theorem fxSubResult : Obligations.FxSubResult := by
  refine ⟨by decide, fun s hm => ?_⟩
  rw [← sat_eq_clampWord]
  exact exists_word_of_isFx (by simp [isFx]) hm rfl (fxsub_inRange _ _)

/-- Settles O33: the factor is `ONE`, and the product saturates. -/
theorem fxFromintResult : Obligations.FxFromintResult := by
  refine ⟨by decide, fun s hm => ?_⟩
  rw [← sat_eq_clampWord, ← ONE_eq]
  exact exists_word_of_isFx (by simp [isFx]) hm rfl (fxfromint_inRange _)

/-- Settles O34: the floor of a reading over `2^16` is in range, so no saturation is needed. -/
theorem fxTointResult : Obligations.FxTointResult := by
  refine ⟨by decide, fun s hm => ?_⟩
  rw [← fxtoint_eq]
  exact exists_word_of_isFx (by simp [isFx]) hm rfl (fxtoint_inRange (toInt_inRange s.a))

end Sys2Proof.Machine
end

/-! SUPPORT and proofs: the result and the frame of the bias tracker's command (spec/41_dc_bias_tracker.md R141). -/

section
open Sys2Proof Sys2Proof.Config

namespace Sys2Proof.Machine

/-! ### Every command's mode check, and the mode that admits all but `INIT` (R95) -/

theorem refusedByMode (i : Instr) : RefusedByMode i := fun _ => exec_of_not_admitted

theorem admitted_of_running {i : Instr} (hi : i ≠ .init) {m : Mode} (hm : m = .running) : Admitted i m := by
  subst hm
  exact hi

/-! ### The bias and the result (R141) -/

/-- R13, R141: the bias is a saturated sum, so the word stored in `DCB_BIAS` reads as it. -/
theorem toInt_dcbUpdate_dcbBias (x : Int) (s : State) : (dcbUpdate x s).dcbBias.toInt = dcbNewBias s x :=
  toInt_word (fxadd_inRange _ _)

/-- R141: the value returned is the input less what `DCB_BIAS` reads as after the update. -/
theorem dcbResult_eq_fxsub_updated (x : Int) (s : State) :
    dcbResult s x = fxsub build x (dcbUpdate x s).dcbBias.toInt := by
  rw [toInt_dcbUpdate_dcbBias, dcbResult]

/-- R141: in `RUNNING` the command writes the updated bias and the result, and no other register. -/
theorem exec_dcbUpd_of_running {s : State} (hm : s.mode = .running) :
    exec .dcbUpd s =
      .next { s with dcbBias := (dcbUpdate (opA s) s).dcbBias, r := word build (dcbResult s (opA s)) } :=
  exec_of_inRange (admitted_of_running (by decide) hm) trivial

/-- Settles O36: the bias and the result saturate, so the words written read as them. -/
theorem dcbUpdResult : Obligations.DcbUpdResult := by
  refine ⟨by decide, refusedByMode _, fun s hm => ⟨_, _, exec_dcbUpd_of_running hm, ?_, ?_⟩⟩
  · exact toInt_dcbUpdate_dcbBias _ s
  · rw [← opA, ← dcbResult_eq_fxsub_updated]
    exact toInt_word (fxsub_inRange _ _)

end Sys2Proof.Machine
end

/-! SUPPORT and proofs: the result and the frame of the envelope follower's command (spec/42_envelope_follower.md R151). -/

section
open Sys2Proof Sys2Proof.Config

namespace Sys2Proof.Machine

/-! ### The decoder on the word of a command (R91 to R93) -/

theorem op_lt_256 (i : Instr) : i.op < 256 := by
  cases i <;> simp [Instr.op]

/-- R91 to R93: the fields of a well-formed command's word are its own, so the decoder is at the command's row. -/
theorem decode_encode_of_wellFormed {i : Instr} (h : i.wellFormed = true) : decode i.cmdReg (encode i) = some i := by
  obtain ⟨hu, hj⟩ := (wellFormed_iff i).1 h
  obtain ⟨hop, hu, hj, hz⟩ := Laws.encodeFields_of_lt (op_lt_256 i) hu hj
  unfold decode
  rw [hop, hu, hj, if_pos hz]
  cases i <;> rfl

/-- R151: the command word of envelope `e`. -/
theorem encode_envUpd (e : Nat) : encode (.envUpd e) = BitVec.ofNat 32 (0x30000000 + e * 0x10000) := by
  have hfields : 0x30 * 2 ^ 24 + e * 2 ^ 16 + 0 * 2 ^ 8 = 0x30000000 + e * 0x10000 := by omega
  rw [encode, Instr.op, Instr.u, Instr.j, hfields]

/-! ### Frames of the operations the command is made of (R15, R21) -/

section
variable {p : Build} {s t u : StateOf p}

/-- What either of two operations may change, the two in a row may. -/
theorem FrameExcept.trans {dest dest' : Reg → Prop} (h : FrameExcept dest s t) (h' : FrameExcept dest' t u) :
    FrameExcept (fun reg => dest reg ∨ dest' reg) s u := by
  obtain ⟨hreg, hbus, hpending, hanswers⟩ := h
  obtain ⟨hreg', hbus', hpending', hanswers'⟩ := h'
  refine ⟨fun reg hne => ?_, hbus'.trans hbus, hpending'.trans hpending, hanswers'.trans hanswers⟩
  obtain ⟨hne, hne'⟩ := not_or.1 hne
  exact (hreg' reg hne').trans (hreg reg hne)

/-- R21: a result leaves every register but `R`. -/
theorem writeR_frameExcept (z : Int) (s : StateOf p) : FrameExcept (· = .regR) s (writeR z s) := by
  refine ⟨fun reg hne => ?_, rfl, rfl, rfl⟩
  cases reg
  case regR => exact absurd rfl hne
  all_goals rfl

/-- R151: an update carries the coefficients of its envelope over and leaves the other envelopes, so only `ENV_VAL[e]` reads
differently. -/
theorem envUpdate_frameExcept (e : Nat) (x : Int) (s : StateOf p) : FrameExcept (· = .envVal e) s (envUpdate e x s) := by
  refine ⟨fun reg hne => ?_, rfl, rfl, rfl⟩
  cases reg
  case envAtk e' | envRel e' =>
    simp only [readReg, envUpdate, env_writeEnv]
    split
    next he => rw [he]
    next => rfl
  case envVal e' =>
    have he : e' ≠ e := fun he => hne (congrArg Reg.envVal he)
    simp only [readReg, envUpdate, env_writeEnv, if_neg he]
  all_goals rfl

end

/-! ### The new value (R151) -/

/-- R13, R151: in either branch the value is a saturated sum. -/
theorem envNewVal_inRange (ev : Env build) (x : Int) : InRange (envNewVal ev x) := by
  unfold envNewVal
  split
  · exact fxadd_inRange _ _
  · exact fxadd_inRange _ _

theorem env_envUpdate_val {p : Build} (e : Nat) (x : Int) (s : StateOf p) :
    (env (envUpdate e x s) e).val = word p (envNewVal (env s e) x) := by
  rw [envUpdate, env_writeEnv_same]

/-- Settles O38: the effect is the update of the envelope and then of `R`, with one word for both. -/
theorem envUpdResult : Obligations.EnvUpdResult := by
  refine ⟨fun e he => ?_, fun e => refusedByMode _, fun s e hm => ⟨fun he => ?_, fun he => ?_⟩⟩
  · rw [← encode_envUpd]
    exact decode_encode_of_wellFormed (i := .envUpd e) (decide_eq_true he)
  · have hval : (env (commandEffect (.envUpd e) s) e).val = word build (envNewVal (env s e) (opA s)) :=
      env_envUpdate_val e (opA s) s
    refine ⟨_, exec_of_inRange (admitted_of_running (by simp) hm) he, ?_, hval.symm, ?_⟩
    · rw [hval, toInt_word (envNewVal_inRange _ _)]
      rfl
    · exact (envUpdate_frameExcept e (opA s) s).trans (writeR_frameExcept _ _)
  · exact exec_of_not_inRange (admitted_of_running (by simp) hm) (Nat.not_lt.2 he)

end Sys2Proof.Machine
end

/-! SUPPORT and proofs: the results and the frames of a bin's update and of the aggregate magnitude (spec/43_goertzel.md R161 to R166). -/

section
open Sys2Proof Sys2Proof.Config

namespace Sys2Proof.Machine

/-! ### The command words and the index check (R91, R93, R96) -/

theorem refusedByIndex (i : Instr) : RefusedByIndex i := fun _ => exec_of_not_inRange

/-- R163: the command word of bin `j` of band `b`. -/
theorem encode_gzUpd (b j : Nat) :
    encode (.gzUpd b j) = BitVec.ofNat 32 (0x40000000 + b * 0x10000 + j * 0x100) := by
  have hfields : 0x40 * 2 ^ 24 + b * 2 ^ 16 + j * 2 ^ 8 = 0x40000000 + b * 0x10000 + j * 0x100 := by omega
  rw [encode, Instr.op, Instr.u, Instr.j, hfields]

/-- R166: the command word of band `b`. -/
theorem encode_bankAgg (b : Nat) : encode (.bankAgg b) = BitVec.ofNat 32 (0x51000000 + b * 0x10000) := by
  have hfields : 0x51 * 2 ^ 24 + b * 2 ^ 16 + 0 * 2 ^ 8 = 0x51000000 + b * 0x10000 := by omega
  rw [encode, Instr.op, Instr.u, Instr.j, hfields]

/-! ### Frames of the operations the commands are made of (R15, R21) -/

section
variable {p : Build} {s t : StateOf p}

/-- What may change may also be said to lie in a larger set of registers. -/
theorem FrameExcept.mono {dest dest' : Reg → Prop} (h : FrameExcept dest s t) (hsub : ∀ reg, dest reg → dest' reg) :
    FrameExcept dest' s t := by
  obtain ⟨hreg, hhost⟩ := h
  exact ⟨fun reg hne => hreg reg fun hdest => hne (hsub reg hdest), hhost⟩

/-- R21: a flag leaves every register but `T`. -/
theorem writeT_frameExcept (x : Bool) (s : StateOf p) : FrameExcept (· = .regT) s (writeT x s) := by
  refine ⟨fun reg hne => ?_, rfl, rfl, rfl⟩
  cases reg
  case regT => exact absurd rfl hne
  all_goals rfl

/-- R38: the bins of a band read as those written with it, the bins of the others as before. -/
theorem bin_writeBand (b b' j : Nat) (bd : Band p) (s : StateOf p) :
    bin (writeBand b bd s) b' j = if b' = b then bd.bins.get j else bin s b' j := by
  simp only [bin_eq, band_writeBand]
  split <;> rfl

/-- R163: of all bins only bin `j` of band `b` takes the update. -/
theorem bin_writeBand_gzUpdate (b j b' j' : Nat) (x : Int) (s : StateOf p) :
    bin (writeBand b ((band s b).gzUpdate j x) s) b' j' =
      if b' = b ∧ j' = j then (bin s b j).gzUpdate (band s b).blockLen (band s b).magScaler x else bin s b' j' := by
  rw [bin_writeBand, Band.gzUpdate_bins, Table.get_set]
  by_cases hb : b' = b
  · simp [hb, bin_eq]
  · simp [hb]

/-- R163: the registers of one bin that its update may change. -/
def BinUpdateReg (b j : Nat) (reg : Reg) : Prop :=
  reg = .q0 b j ∨ reg = .q1 b j ∨ reg = .q2 b j ∨ reg = .blkPos b j ∨ reg = .mag b j

/-- R163: the other bins are left, the bin's own `COEF` and `PREVMAG` are carried over, and so is the rest of its band. -/
theorem gzUpdate_frameExcept (b j : Nat) (x : Int) (s : StateOf p) :
    FrameExcept (BinUpdateReg b j) s (writeBand b ((band s b).gzUpdate j x) s) := by
  refine ⟨fun reg hne => ?_, rfl, rfl, rfl⟩
  cases reg
  case q0 b' j' | q1 b' j' | q2 b' j' | blkPos b' j' | mag b' j' =>
    have hother : ¬ (b' = b ∧ j' = j) := by
      rintro ⟨rfl, rfl⟩
      simp [BinUpdateReg] at hne
    simp only [readReg, bin_writeBand_gzUpdate, if_neg hother]
  case coef b' j' | prevMag b' j' =>
    simp only [readReg, bin_writeBand_gzUpdate]
    split
    next hsame =>
      obtain ⟨rfl, rfl⟩ := hsame
      simp only [Bin.gzUpdate_coef, Bin.gzUpdate_prevMag]
    next => rfl
  case blockLen | size | magScaler | sizeScaler | wrIdx | bankRdy | fluxHist | outMag | outOnset | outReady | outOverrun |
      tkMag | tkOnset | tkReady =>
    simp only [readReg, band_writeBand]
    split
    next hb => subst hb; rfl
    next => rfl
  all_goals rfl

end

/-! ### One bin's update (R161, R163) -/

/-- R161: the magnitude is the root of the power clamped at 0, times the scaler. -/
theorem goertzelMag_eq_max {p : Build} (q1 q2 c scaler : Int) :
    goertzelMag p q1 q2 c scaler = fxmul p (fxsqrt p (max (goertzelPower p q1 q2 c) 0)) scaler := by
  have hclamp (z : Int) : (if z < 0 then 0 else z) = max z 0 := by omega
  rw [goertzelMag, hclamp]

/-- R161: the flag and the updated bin that `GZ.UPD` leaves. -/
theorem commandEffect_gzUpd (s : State) (b j : Nat) :
    (commandEffect (.gzUpd b j) s).t = decide ((bin s b j).blkPos.toNat + 1 = (band s b).blockLen.toNat) ∧
      bin (commandEffect (.gzUpd b j) s) b j =
        (bin s b j).gzUpdate (band s b).blockLen (band s b).magScaler (opA s) :=
  ⟨rfl, (bin_writeBand_gzUpdate b j b j (opA s) s).trans (if_pos ⟨rfl, rfl⟩)⟩

/-- R163: the bin's five registers and `T` are all that `GZ.UPD` may change. -/
theorem commandEffect_gzUpd_frameExcept (s : State) (b j : Nat) :
    FrameExcept (fun reg => BinUpdateReg b j reg ∨ reg = .regT) s (commandEffect (.gzUpd b j) s) :=
  (gzUpdate_frameExcept b j (opA s) s).trans (writeT_frameExcept _ _)

/-- Settles O40: the update is one of the two cases of `Bin.gzUpdate_cases`, and each word stored in it holds a saturated value. -/
theorem gzUpdResult : Obligations.GzUpdResult := by
  refine ⟨fun b hb j hj => ?_, fun b j => ⟨refusedByMode _, refusedByIndex _⟩, fun s b j hm hb hj => ?_⟩
  · rw [← encode_gzUpd]
    exact decode_encode_of_wellFormed (i := .gzUpd b j) ((wellFormed_iff _).2 ⟨hb, hj⟩)
  · refine ⟨_, exec_of_inRange (admitted_of_running (by simp) hm) ⟨hb, hj⟩,
      (commandEffect_gzUpd_frameExcept s b j).mono fun reg h => by simpa only [BinUpdateReg, or_assoc] using h, ?_⟩
    obtain ⟨ht, hbin⟩ := commandEffect_gzUpd s b j
    rw [ht, hbin]
    intro c q1 q0 power
    obtain ⟨hlast, hupd⟩ | ⟨hlast, hupd⟩ :=
      (bin s b j).gzUpdate_cases (band s b).blockLen (band s b).magScaler (opA s)
    · rw [if_pos hlast, hupd]
      refine ⟨decide_eq_true hlast, rfl, rfl, rfl, rfl, ?_⟩
      rw [goertzelMag_eq_max]
      exact toInt_word (fxmul_inRange _ _)
    · rw [if_neg hlast, hupd]
      have hq0 : (word build ((bin s b j).newQ0 (opA s))).toInt = q0 := toInt_word (fxadd_inRange _ _)
      exact ⟨decide_eq_false hlast, hq0, hq0, rfl, fun hfits => BitVec.toNat_add_of_lt hfits, rfl⟩

/-! ### The aggregate magnitude (R166) -/

/-- R16: over the cells below `n` a saturating sum of terms that are not negative is the exact sum, cut off at `FX_MAX`. -/
theorem foldl_fxadd_range {p : Build} (f : Nat → Int) (n : Nat) (hf : ∀ j < n, 0 ≤ f j) :
    (List.range n).foldl (fun sum j => fxadd p sum (f j)) 0 = min p.FX_MAX (∑ j ∈ Finset.range n, f j) := by
  have hmem : ∀ j ∈ List.range n, 0 ≤ f j := fun j hj => hf j (List.mem_range.1 hj)
  rw [foldl_fxadd_nonneg f _ 0 le_rfl FX_MAX_nonneg hmem, zero_add]
  rfl

/-- Settles O43: the aggregate fits a word, and over non-negative magnitudes its sum is that of `foldl_fxadd_range`. -/
theorem bankAggResult : Obligations.BankAggResult := by
  refine ⟨fun b hb => ?_, fun b => ⟨refusedByMode _, refusedByIndex _⟩, fun s b hm hb => ?_⟩
  · rw [← encode_bankAgg]
    exact decode_encode_of_wellFormed (i := .bankAgg b) (decide_eq_true hb)
  · refine ⟨_, (band s b).magSum, exec_of_inRange (admitted_of_running (by simp) hm) hb, rfl, ?_, fun hmag => ?_⟩
    · exact toInt_word ((fits_build _).1 ((band s b).bankAgg_fits s.aggNorm))
    · rw [← FX_MAX_eq]
      exact foldl_fxadd_range _ _ hmag

end Sys2Proof.Machine
end

/-! SUPPORT and proofs: the results and the frames of the flux update and of the onset test (spec/44_spectral_flux.md R181 to R184). -/

section
open Sys2Proof Sys2Proof.Config

namespace Sys2Proof.Machine

/-! ### The command words (R91, R93) -/

/-- R182: the command word of band `b`. -/
theorem encode_fluxUpd (b : Nat) : encode (.fluxUpd b) = BitVec.ofNat 32 (0x60000000 + b * 0x10000) := by
  have hfields : 0x60 * 2 ^ 24 + b * 2 ^ 16 + 0 * 2 ^ 8 = 0x60000000 + b * 0x10000 := by omega
  rw [encode, Instr.op, Instr.u, Instr.j, hfields]

/-- R184: the command word of band `b`. -/
theorem encode_fluxOnset (b : Nat) : encode (.fluxOnset b) = BitVec.ofNat 32 (0x61000000 + b * 0x10000) := by
  have hfields : 0x61 * 2 ^ 24 + b * 2 ^ 16 + 0 * 2 ^ 8 = 0x61000000 + b * 0x10000 := by omega
  rw [encode, Instr.op, Instr.u, Instr.j, hfields]

/-! ### The flux of a block (R181) -/

section
variable {p : Build}

/-- R161: a bank update carries `PREVMAG` over in every bin. -/
theorem prevMag_bankUpdate (bd : Band p) (x : Int) (j : Nat) :
    ((bd.bankUpdate x).bins.get j).prevMag = (bd.bins.get j).prevMag := by
  rw [Band.get_bankUpdate]
  split
  next => rw [Bin.gzUpdate_prevMag]
  next => rfl

/-- R181: of all bins those of band `b` below `SIZE` take their magnitude as `PREVMAG`. -/
theorem bin_writeBand_fluxBlock (b b' j : Nat) (s : StateOf p) :
    bin (writeBand b (band s b).fluxBlock s) b' j =
      if b' = b ∧ j < (band s b).size.toNat then { bin s b j with prevMag := (bin s b j).mag } else bin s b' j := by
  rw [bin_writeBand, Band.get_fluxBlock]
  by_cases hb : b' = b
  · simp [hb, bin_eq]
  · simp [hb]

/-- R182: the registers of band `b` that the flux of a block may change. -/
def FluxBlockReg (b : Nat) (bd : Band p) (reg : Reg) : Prop :=
  reg = .wrIdx b ∨ reg = .fluxHist b bd.nextWrIdx ∨ ∃ j < bd.size.toNat, reg = .prevMag b j

/-- R182: the other bands are left, the bins carry everything but `PREVMAG` over, and of the window only the new slot is written. -/
theorem fluxBlock_frameExcept (b : Nat) (s : StateOf p) :
    FrameExcept (FluxBlockReg b (band s b)) s (writeBand b (band s b).fluxBlock s) := by
  refine ⟨fun reg hne => ?_, rfl, rfl, rfl⟩
  cases reg
  case prevMag b' j =>
    have hother : ¬ (b' = b ∧ j < (band s b).size.toNat) := by
      rintro ⟨rfl, hj⟩
      exact hne (.inr (.inr ⟨j, hj, rfl⟩))
    simp only [readReg, bin_writeBand_fluxBlock, if_neg hother]
  case coef | q0 | q1 | q2 | blkPos | mag =>
    simp only [readReg, bin_writeBand_fluxBlock]
    split
    next hsame =>
      obtain ⟨rfl, -⟩ := hsame
      rfl
    next => rfl
  case wrIdx b' =>
    have hb : b' ≠ b := fun hb => hne (.inl (congrArg Reg.wrIdx hb))
    simp only [readReg, band_writeBand, if_neg hb]
  case fluxHist b' k =>
    simp only [readReg, band_writeBand]
    split
    next hb =>
      subst hb
      have hk : k ≠ (band s b').nextWrIdx := fun hk => hne (.inr (.inl (congrArg (Reg.fluxHist b') hk)))
      rw [Band.fluxBlock_fluxHist, Table.get_set_other _ _ hk]
    next => rfl
  case blockLen | size | magScaler | sizeScaler | bankRdy | outMag | outOnset | outReady | outOverrun | tkMag | tkOnset |
      tkReady =>
    simp only [readReg, band_writeBand]
    split
    next hb => subst hb; rfl
    next => rfl
  all_goals rfl

/-! ### A flux update as a bank update (R182) -/

/-- R165: the band that `BANK.UPD` leaves. -/
theorem band_commandEffect_bankUpd (s : StateOf p) (b : Nat) :
    band (commandEffect (.bankUpd b) s) b = (band s b).bankUpdate (opA s) :=
  band_writeBand_same s b _

/-- R15: a band written twice holds what was written last, and a flag written between is kept. -/
theorem writeBand_writeT_writeBand (b : Nat) (bd bd' : Band p) (x : Bool) (s : StateOf p) :
    writeBand b bd' (writeT x (writeBand b bd s)) = writeT x (writeBand b bd' s) := by
  simp only [writeBand, writeT, Table.set_set]

/-- R182: `FLUX.UPD` is `BANK.UPD`, followed by the flux of the block when `BANK.UPD` reports a boundary. -/
theorem commandEffect_fluxUpd_cases (s : StateOf p) (b : Nat) :
    ((commandEffect (.bankUpd b) s).t = true ∧ commandEffect (.fluxUpd b) s =
        writeBand b (band (commandEffect (.bankUpd b) s) b).fluxBlock (commandEffect (.bankUpd b) s)) ∨
      ((commandEffect (.bankUpd b) s).t = false ∧ commandEffect (.fluxUpd b) s = commandEffect (.bankUpd b) s) := by
  obtain ⟨hready, hupd⟩ | ⟨hready, hupd⟩ := (band s b).fluxUpdate_cases (opA s)
  · refine .inl ⟨hready, ?_⟩
    rw [band_commandEffect_bankUpd]
    simp only [commandEffect, hupd, writeBand_writeT_writeBand]
  · refine .inr ⟨hready, ?_⟩
    simp only [commandEffect, hupd]

end

/-- R181: the write index is below the window's length, so a word holds it. -/
theorem toNat_fluxBlock_wrIdx (bd : Band build) : bd.fluxBlock.wrIdx.toNat = (bd.wrIdx.toNat + 1) % 5 := by
  have hlt : (bd.wrIdx.toNat + 1) % 5 < 5 := Nat.mod_lt _ (by omega)
  exact Nat.mod_eq_of_lt (hlt.trans (by decide))

/-- R181: the flux is a saturated sum, so the slot at the new index reads as it. -/
theorem toInt_fluxBlock_fluxHist (bd : Band build) :
    (bd.fluxBlock.fluxHist.get ((bd.wrIdx.toNat + 1) % 5)).toInt = bd.flux := by
  have hslot : bd.fluxBlock.fluxHist.get ((bd.wrIdx.toNat + 1) % 5) = word build bd.flux := Table.get_set_same _ _ _
  rw [hslot, toInt_word ((fits_build _).1 bd.flux_fits)]

/-- Settles O44: on a boundary the flux of the block is taken of the state that `BANK.UPD` leaves, which holds the `WRIDX`, `SIZE`
and `PREVMAG` of the state before. -/
theorem fluxUpdResult : Obligations.FluxUpdResult := by
  refine ⟨fun b hb => ?_, fun b => ⟨refusedByMode _, refusedByIndex _⟩, fun s b hm hb => ?_⟩
  · rw [← encode_fluxUpd]
    exact decode_encode_of_wellFormed (i := .fluxUpd b) (decide_eq_true hb)
  · refine ⟨_, _, exec_of_inRange (admitted_of_running (by simp) hm) hb,
      exec_of_inRange (admitted_of_running (by simp) hm) hb, rfl, ?_⟩
    have hbank := band_commandEffect_bankUpd s b
    obtain ⟨hready, hflux⟩ | ⟨hready, hflux⟩ := commandEffect_fluxUpd_cases s b
    · rw [hflux, hready]
      generalize commandEffect (.bankUpd b) s = u at hbank
      have hwr : (band u b).wrIdx = (band s b).wrIdx := by rw [hbank, Band.bankUpdate_wrIdx]
      have hsize : (band u b).size = (band s b).size := by rw [hbank, Band.bankUpdate_size]
      have hprev (j : Nat) : (bin s b j).prevMag = ((band u b).bins.get j).prevMag := by
        rw [hbank, prevMag_bankUpdate, bin_eq]
      rw [← hwr, ← hsize, band_writeBand_same]
      refine ⟨nofun, fun _ => ⟨toNat_fluxBlock_wrIdx _, ?_, fun j hj => ?_, fluxBlock_frameExcept b u⟩⟩
      · simp only [toInt_fluxBlock_fluxHist, hprev]
        rfl
      · rw [bin_writeBand_fluxBlock, if_pos ⟨rfl, hj⟩]
    · rw [hflux, hready]
      exact ⟨fun _ => rfl, nofun⟩

/-! ### The onset test (R183) -/

/-- R183: the flux at `lag` is a maximum of the window. -/
theorem onset_iff {p : Build} (bd : Band p) :
    bd.onset = true ↔ ∀ k < p.WIN, (bd.fluxHist.get k).toInt ≤ (bd.fluxHist.get bd.lag).toInt := by
  simp only [Band.onset, List.all_eq_true, List.mem_range, decide_eq_true_eq]

/-- Settles O46: the effect writes `T`, and `onset_iff` at the default window tests slot `(WRIDX + 3) mod 5` of five. -/
theorem fluxOnsetResult : Obligations.FluxOnsetResult := by
  refine ⟨fun b hb => ?_, fun b => ⟨refusedByMode _, refusedByIndex _⟩, fun s b hm hb => ?_⟩
  · rw [← encode_fluxOnset]
    exact decode_encode_of_wellFormed (i := .fluxOnset b) (decide_eq_true hb)
  · exact ⟨(band s b).onset, exec_of_inRange (admitted_of_running (by simp) hm) hb, onset_iff _⟩

end Sys2Proof.Machine
end

/-! SUPPORT and proofs: the result and the frame of the gain controller's tick (spec/45_auto_gain.md R191, R193). -/

section
open Sys2Proof Sys2Proof.Config

namespace Sys2Proof.Machine

/-! ### The gain code and its control word (R190, R193) -/

/-- R193: the control word of code `k` is the number `0x4000 + k`, the two fields sharing no bit. -/
theorem toNat_gainWord (k : BitVec 3) : (gainWord k).toNat = 0x4000 + k.toNat := by
  have hdisjoint : 0x4000 ||| k.toNat = 0x4000 + k.toNat :=
    (Nat.two_pow_add_eq_or_of_lt (i := 14) (k.isLt.trans (by decide)) 1).symm
  rw [gainWord, BitVec.toNat_or, BitVec.toNat_setWidth_of_le (by decide)]
  exact hdisjoint

/-- R190: below the last code a step up does not wrap. -/
theorem toNat_gainCode_succ {k : BitVec 3} (h : k.toNat ≠ 7) : (k + 1).toNat = k.toNat + 1 := by
  bv_omega

/-- R190: above code 0 a step down does not wrap. -/
theorem toNat_gainCode_pred {k : BitVec 3} (h : k.toNat ≠ 0) : (k - 1).toNat + 1 = k.toNat := by
  bv_omega

/-! ### The two tests of an evaluation (R191) -/

section
variable {p : Build} {s : StateOf p}

/-- R191: the first test, a low envelope with a code left above. -/
def LowTest (s : StateOf p) : Prop := (env s 0).val.toInt < s.agcLow.toInt ∧ s.agcStep.toNat ≠ 7

/-- R191: the second test, a high envelope with a code left below. -/
def HighTest (s : StateOf p) : Prop := s.agcHigh.toInt < (env s 0).val.toInt ∧ s.agcStep.toNat ≠ 0

theorem lowTest_iff : LowTest s ↔ (env s 0).val.toInt < s.agcLow.toInt ∧ s.agcStep ≠ 7 :=
  and_congr_right fun _ => (BitVec.toNat_inj (y := 7)).not

theorem highTest_iff : HighTest s ↔ s.agcHigh.toInt < (env s 0).val.toInt ∧ s.agcStep ≠ 0 :=
  and_congr_right fun _ => (BitVec.toNat_inj (y := 0)).not

/-- R191: the low test comes first. -/
theorem agcNewStep_of_lowTest (hlow : LowTest s) : agcNewStep s = some (s.agcStep + 1) :=
  if_pos (lowTest_iff.1 hlow)

/-- R191: the high test is made only when the low one fails. -/
theorem agcNewStep_of_highTest (hlow : ¬ LowTest s) (hhigh : HighTest s) : agcNewStep s = some (s.agcStep - 1) := by
  rw [lowTest_iff] at hlow
  rw [agcNewStep, if_neg hlow, if_pos (highTest_iff.1 hhigh)]

/-- R191: with both tests failed the code stays. -/
theorem agcNewStep_of_no_test (hlow : ¬ LowTest s) (hhigh : ¬ HighTest s) : agcNewStep s = none := by
  rw [lowTest_iff] at hlow
  rw [highTest_iff] at hhigh
  rw [agcNewStep, if_neg hlow, if_neg hhigh]

/-- R191: no step is taken exactly when both tests fail. -/
theorem agcNewStep_eq_none_iff : agcNewStep s = none ↔ ¬ LowTest s ∧ ¬ HighTest s := by
  by_cases hlow : LowTest s
  · simp [agcNewStep_of_lowTest hlow, hlow]
  by_cases hhigh : HighTest s
  · simp [agcNewStep_of_highTest hlow hhigh, hhigh]
  · simp [agcNewStep_of_no_test hlow hhigh, hlow, hhigh]

/-- R191: a step goes one code up on the low test, and otherwise one code down. -/
theorem toNat_agcNewStep {k : BitVec 3} (hk : agcNewStep s = some k) :
    (LowTest s → k.toNat = s.agcStep.toNat + 1) ∧ (¬ LowTest s → k.toNat + 1 = s.agcStep.toNat) := by
  refine ⟨fun hlow => ?_, fun hlow => ?_⟩
  · obtain rfl := Option.some.inj ((agcNewStep_of_lowTest hlow).symm.trans hk)
    exact toNat_gainCode_succ hlow.2
  · have hhigh : HighTest s := by
      by_contra hhigh
      simp [agcNewStep_eq_none_iff.2 ⟨hlow, hhigh⟩] at hk
    obtain rfl := Option.some.inj ((agcNewStep_of_highTest hlow hhigh).symm.trans hk)
    exact toNat_gainCode_pred hhigh.2

end

/-! ### The command (R191) -/

/-- Settles O48: each case of `agcTick_cases` is one case of the statement, and `agcNewStep` says which test holds in it. -/
theorem agcTickResult : Obligations.AgcTickResult := by
  refine ⟨by decide, refusedByMode _, fun s hm =>
    ⟨agcTick s, exec_of_inRange (admitted_of_running (by decide) hm) trivial, ?_⟩⟩
  obtain ⟨hpos, htick⟩ | ⟨hzero, hnone, htick⟩ | ⟨k, hzero, hk, htick⟩ := agcTick_cases s
  · have hle : (1 : Word) ≤ s.agcHoldcnt := hpos
    exact ⟨fun _ => ⟨_, htick, BitVec.toNat_sub_of_le hle⟩, fun hzero => absurd hzero hpos.ne'⟩
  · obtain ⟨hlow, hhigh⟩ := agcNewStep_eq_none_iff.1 hnone
    exact ⟨fun hpos => absurd hzero hpos.ne', fun _ =>
      ⟨fun _ _ => htick, fun htest => absurd htest (not_or_intro hlow hhigh)⟩⟩
  · refine ⟨fun hpos => absurd hzero hpos.ne', fun _ => ⟨fun hlow hhigh => ?_, fun _ => ?_⟩⟩
    · exact absurd (agcNewStep_eq_none_iff.2 ⟨hlow, hhigh⟩) (by simp [hk])
    · exact ⟨k, gainWord k, htick, toNat_gainWord k, toNat_agcNewStep hk⟩

end Sys2Proof.Machine
end

/-! SUPPORT and proofs: the checks and the actions of the pipeline's construction (spec/46_pipeline.md R200 to R202). -/

section
open Sys2Proof Sys2Proof.Config

namespace Sys2Proof.Machine

section
variable {p : Build}

/-! ### The checks (R201) -/

/-- R201 (1): the number of bands is checked first. -/
theorem initFailure_of_bad_nbands {s : StateOf p} (h : s.nbands.toNat = 0 ∨ p.MAXBANDS < s.nbands.toNat) :
    initFailure s = some .cfgNbands := if_pos h

/-- R201 (2): a band's block length is checked before its size. -/
theorem Band.initFailure_of_bad_blockLen {bd : Band p} (h : bd.blockLen.toNat = 0 ∨ p.NMAX < bd.blockLen.toNat) :
    bd.initFailure = some .cfgBlocklen := if_pos h

/-- R201 (2): a bad size decides when the block length is good. -/
theorem Band.initFailure_of_bad_size {bd : Band p} (h1 : 1 ≤ bd.blockLen.toNat) (hmax : bd.blockLen.toNat ≤ p.NMAX)
    (h : bd.size.toNat = 0 ∨ p.MAXBINS < bd.size.toNat) : bd.initFailure = some .cfgSize := by
  rw [Band.initFailure, if_neg (by omega), if_pos h]

/-- R201 (2): a band whose block length and size are good passes both checks. -/
theorem initFailure_band_of_ok {s : StateOf p} {b : Nat} (h : BandConfigOk s b) : (band s b).initFailure = none := by
  obtain ⟨hblock, hnmax, hsize, hmaxbins⟩ := h
  rw [Band.initFailure, if_neg (by omega), if_neg (by omega)]

/-- The first of the numbers below `n` with an answer gives the answer of the search. -/
theorem findSome?_range_of_first {α : Type} {f : Nat → Option α} {n b : Nat} {v : α} (hb : b < n) (hv : f b = some v)
    (hbefore : ∀ b' < b, f b' = none) : (List.range n).findSome? f = some v := by
  obtain ⟨m, rfl⟩ : ∃ m, n = b + (m + 1) := ⟨n - b - 1, by omega⟩
  have hnone : (List.range b).findSome? f = none :=
    List.findSome?_eq_none_iff.2 fun b' hb' => hbefore b' (List.mem_range.1 hb')
  rw [List.range_add, List.findSome?_append, hnone, Option.none_or, List.range_succ_eq_map, List.map_cons, Nat.add_zero,
    List.findSome?_cons, hv]

/-- R201 (2): the bands are checked in their order, and the first that fails decides. -/
theorem initFailure_of_first_bad_band {s : StateOf p} {b : Nat} {c : Cause} (hb : b < s.nbands.toNat)
    (hmax : s.nbands.toNat ≤ p.MAXBANDS) (hbefore : ∀ b' < b, BandConfigOk s b') (hc : (band s b).initFailure = some c) :
    initFailure s = some c := by
  rw [initFailure, if_neg (by omega)]
  exact findSome?_range_of_first hb hc fun b' hb' => initFailure_band_of_ok (hbefore b' hb')

/-- R201: a valid configuration passes every check. -/
theorem initFailure_of_configValid {s : StateOf p} (h : ConfigValid s) : initFailure s = none := by
  obtain ⟨hone, hmax, hbands⟩ := h
  rw [initFailure, if_neg (by omega), List.findSome?_eq_none_iff]
  exact fun b hb => initFailure_band_of_ok (hbands b (List.mem_range.1 hb))

/-- R200: a failing check fails the block and records its cause. -/
theorem initPipeline_of_failure {s : StateOf p} {c : Cause} (h : initFailure s = some c) :
    initPipeline s = { s with mode := .failed, cause := firstCause s.cause c } := by
  rw [initPipeline, h]
  exact raiseErr_eq_firstCause c _

/-- R200: with every check passed the pipeline is constructed. -/
theorem initPipeline_of_configValid {s : StateOf p} (h : ConfigValid s) : initPipeline s = construct s := by
  rw [initPipeline, initFailure_of_configValid h]

/-! ### What the construction leaves (R202) -/

/-- R202: the bands in use are constructed, the others are left. -/
theorem band_construct (s : StateOf p) (b : Nat) :
    band (construct s) b = if b < s.nbands.toNat then (band s b).construct else band s b :=
  Table.get_updBelow _ _ _ _

/-- R202: of a band in use every bin keeps its coefficient and no more. -/
theorem bin_construct (s : StateOf p) (b j : Nat) :
    bin (construct s) b j =
      if b < s.nbands.toNat ∧ j < p.MAXBINS then { Bin.zero with coef := (bin s b j).coef } else bin s b j := by
  rw [bin_eq, band_construct]
  by_cases hb : b < s.nbands.toNat
  · rw [if_pos hb, Band.construct_bins, Table.get_updBelow]
    simp only [hb, true_and]
    rfl
  · simp only [hb, false_and, if_false, bin_eq]

/-- R202: of a band in use the window is cleared. -/
theorem fluxHist_construct (s : StateOf p) (b k : Nat) :
    (band (construct s) b).fluxHist.get k =
      if b < s.nbands.toNat ∧ k < p.WIN then 0 else (band s b).fluxHist.get k := by
  rw [band_construct]
  by_cases hb : b < s.nbands.toNat
  · rw [if_pos hb, Band.construct_fluxHist, Table.get_updBelow]
    simp only [hb, true_and]
  · simp only [hb, false_and, if_false]

/-- R202: an envelope that is built keeps its coefficients and no more. -/
theorem env_construct (s : StateOf p) (e : Nat) :
    env (construct s) e = if e < p.NE then { env s e with val := 0 } else env s e :=
  Table.get_updBelow _ _ _ _

/-- R202: the registers of band `b` that its construction may change. -/
def BandConstructReg (p : Build) (b : Nat) (reg : Reg) : Prop :=
  reg = .magScaler b ∨ reg = .sizeScaler b ∨ reg = .outMag b ∨ reg = .outOnset b ∨ reg = .outReady b ∨
    reg = .outOverrun b ∨ reg = .tkMag b ∨ reg = .tkOnset b ∨ reg = .tkReady b ∨ reg = .wrIdx b ∨ reg = .bankRdy b ∨
    (∃ k < p.WIN, reg = .fluxHist b k) ∨
    ∃ j < p.MAXBINS, reg = .q0 b j ∨ reg = .q1 b j ∨ reg = .q2 b j ∨ reg = .blkPos b j ∨ reg = .mag b j ∨
      reg = .prevMag b j

/-- R202: the registers that a successful `INIT` may change. -/
def ConstructReg (s : StateOf p) (reg : Reg) : Prop :=
  reg = .status ∨ reg = .dcbBias ∨ (∃ e < p.NE, reg = .envVal e) ∨ reg = .agcHoldcnt ∨ reg = .agcStep ∨
    reg = .agcSwgain ∨ ∃ b < s.nbands.toNat, BandConstructReg p b reg

/-- R202: the configuration of a band in use is carried over, and the rest of the block is left. -/
theorem construct_frameExcept (s : StateOf p) : FrameExcept (ConstructReg s) s (construct s) := by
  refine ⟨fun reg hne => ?_, rfl, rfl, rfl⟩
  cases reg
  case status | dcbBias | agcHoldcnt | agcStep | agcSwgain => simp [ConstructReg] at hne
  case envVal e =>
    have he : ¬ e < p.NE := by simpa [ConstructReg, BandConstructReg] using hne
    simp only [readReg, env_construct, if_neg he]
  case envAtk e | envRel e =>
    simp only [readReg, env_construct]
    split <;> rfl
  case magScaler b | sizeScaler b | outMag b | outOnset b | outReady b | outOverrun b | tkMag b | tkOnset b | tkReady b |
      wrIdx b | bankRdy b =>
    have hb : ¬ b < s.nbands.toNat := by simpa [ConstructReg, BandConstructReg] using hne
    simp only [readReg, band_construct, if_neg hb]
  case fluxHist b k =>
    have hk : ¬ (b < s.nbands.toNat ∧ k < p.WIN) := by simpa [ConstructReg, BandConstructReg] using hne
    simp only [readReg, fluxHist_construct, if_neg hk]
  case q0 b j | q1 b j | q2 b j | blkPos b j | mag b j | prevMag b j =>
    have hj : ¬ (b < s.nbands.toNat ∧ j < p.MAXBINS) := by simpa [ConstructReg, BandConstructReg] using hne
    simp only [readReg, bin_construct, if_neg hj]
  case blockLen | size =>
    simp only [readReg, band_construct]
    split <;> rfl
  case coef =>
    simp only [readReg, bin_construct]
    split <;> rfl
  all_goals rfl

end

/-! ### The scalers (R202) -/

/-- R117: a count up to `NMAX` converts exactly. -/
theorem fxfromint_of_le {n : Nat} (hmax : n ≤ 32767) : fxfromint build n = n * 65536 := by
  rw [fxfromint, ONE_eq]
  exact sat_of_inRange (by omega)

/-- R112: the reciprocal of a converted count is a quotient of at most `ONE`, which needs no saturation. -/
theorem fxrcp_of_count {n : Nat} (h1 : 1 ≤ n) : fxrcp build (n * 65536) = 65536 / (n : Int) := by
  have hquot : (4294967296 : Int) / (n * 65536) = 65536 / n :=
    Int.mul_ediv_mul_of_pos_left 65536 n (by decide : (0 : Int) < 65536)
  have hnonneg : 0 ≤ 65536 / (n : Int) := Int.ediv_nonneg (by decide) (by omega)
  have hle : 65536 / (n : Int) ≤ 65536 := Int.ediv_le_self _ (by decide)
  rw [fxrcp_of_ne_zero (by omega), fdiv_pos (by omega), hquot, ← sat_eq_clampWord]
  exact sat_of_inRange (by omega)

/-- R202: the scaler of a count that the checks pass. -/
theorem toInt_scalerOf {n : Word} (h1 : 1 ≤ n.toNat) (hmax : n.toNat ≤ 32767) :
    (scalerOf build n).toInt = 65536 / (n.toNat : Int) := by
  have hfromint : fxfromint build (Int.ofNat n.toNat) = n.toNat * 65536 := fxfromint_of_le hmax
  rw [scalerOf, toInt_word (fxrcp_inRange _), hfromint, fxrcp_of_count h1]

/-! ### The command (R200) -/

/-- R95: in `UNCONFIGURED` the command runs its checks. -/
theorem exec_init_of_unconfigured {s : State} (hm : s.mode = .unconfigured) : exec .init s = .next (initPipeline s) :=
  exec_of_inRange (hm ▸ .inl rfl) trivial

/-- Settles O26: a failing check is the first by `initFailure_of_first_bad_band`, or the number of bands. -/
theorem initFailsAtFirstCheck : Obligations.InitFailsAtFirstCheck := by
  intro s hm
  rw [exec_init_of_unconfigured hm]
  refine ⟨fun h => ?_, fun b hb hmax hbefore => ⟨fun h => ?_, fun h1 hnmax h => ?_⟩, fun h1 hmax hbands => ?_⟩
  · rw [initPipeline_of_failure (initFailure_of_bad_nbands h)]
  · rw [← NMAX_eq] at h
    rw [initPipeline_of_failure (initFailure_of_first_bad_band hb hmax hbefore (Band.initFailure_of_bad_blockLen h))]
  · rw [← NMAX_eq] at hnmax
    rw [initPipeline_of_failure (initFailure_of_first_bad_band hb hmax hbefore (Band.initFailure_of_bad_size h1 hnmax h))]
  · exact ⟨construct s, congrArg _ (initPipeline_of_configValid ⟨h1, hmax, hbands⟩), rfl, rfl⟩

/-- Settles O25: the scalers are those of `toInt_scalerOf`, the counts being in range by the checks, and the frame is that of
`construct_frameExcept`. -/
theorem initSucceeds : Obligations.InitSucceeds := by
  intro s hm hvalid
  have hexec : exec .init s = .next (construct s) := by
    rw [exec_init_of_unconfigured hm, initPipeline_of_configValid hvalid]
  obtain ⟨-, -, hbands⟩ := hvalid
  refine ⟨construct s, hexec, rfl, rfl, fun b hb => ?_, rfl, fun e he => ?_, rfl, rfl, rfl,
    construct_frameExcept s⟩
  · obtain ⟨hblock, hnmax, hsize, hmaxbins⟩ := hbands b hb
    have hsizeMax : (band s b).size.toNat ≤ 32767 := hmaxbins.trans (by decide)
    have hband : band (construct s) b = (band s b).construct := by rw [band_construct, if_pos hb]
    rw [NMAX_eq] at hnmax
    refine ⟨?_, ?_, fun j hj => ?_, fun k hk => ?_, ?_⟩
    · simp only [readReg, hband, Band.construct_magScaler, toInt_scalerOf hblock hnmax]
    · simp only [readReg, hband, Band.construct_sizeScaler, toInt_scalerOf hsize hsizeMax]
    · have hbin : bin (construct s) b j = { Bin.zero with coef := (bin s b j).coef } := by
        rw [bin_construct, if_pos ⟨hb, hj⟩]
      simp [readReg, hbin, Bin.zero]
    · simp only [readReg, fluxHist_construct]
      exact if_pos ⟨hb, hk⟩
    · simp [readReg, hband, bitWord]
  · simp only [readReg, env_construct, if_pos he]

end Sys2Proof.Machine
end

/-! SUPPORT and proofs: the result and the frame of a sample period (spec/46_pipeline.md R203). -/

section
open Sys2Proof Sys2Proof.Config

namespace Sys2Proof.Machine

/-! ### The tick of a sample period on the new envelope (R203 step 4) -/

section
variable {p : Build}

/-- R191: a tick reads envelope 0 and the controller's registers alone, so a bias and bands written before it may be written after. -/
theorem agcTick_update (s : StateOf p) (bias : WordOf p) (bands : Table (Band p) Band.zero) :
    agcTick { s with dcbBias := bias, bands := bands } = { agcTick s with dcbBias := bias, bands := bands } := by
  have hstep : agcNewStep { s with dcbBias := bias, bands := bands } = agcNewStep s := rfl
  unfold agcTick
  rw [hstep]
  split
  next => rfl
  next =>
    cases agcNewStep s with
    | none => rfl
    | some k => rfl

/-- R203: of the five steps the envelope's alone writes the envelopes. -/
theorem envs_onSample (s : StateOf p) : (onSample s).envs = (envUpdate 0 (conditioned s) s).envs := by
  obtain ⟨_, _, _, _, _, htick⟩ :=
    agcTick_frame (updateBands (conditioned s) (envUpdate 0 (conditioned s) (dcbUpdate (adcToFx p s.sampleIn) s)))
  rw [onSample_fields, htick]
  rfl

/-- R203: a sample period is a tick on the new envelopes, the new bias and the new bands. -/
theorem onSample_eq_agcTick (s : StateOf p) :
    onSample s =
      { agcTick { s with envs := (onSample s).envs } with
        dcbBias := word p (dcbNewBias s (adcToFx p s.sampleIn)), bands := (onSample s).bands } := by
  have hsplit := (onSample_fields s).trans
    (congrArg (publishBands _) (agcTick_update { s with envs := (envUpdate 0 (conditioned s) s).envs } _ _))
  rw [envs_onSample, hsplit]
  rfl

end

/-! ### The conditioned sample (R9, R141, R203 step 1) -/

/-- R9: at the defaults a raw reading is taken as it stands, its 16 bits fitting a word. -/
theorem adcToFx_eq (raw : BitVec build.ADC_BITS) : adcToFx build raw = raw.toNat := by
  have hraw : raw.toNat < 65536 := raw.isLt
  have hshift : adcToFx build raw = sat build (raw.toNat * 1 : Nat) := rfl
  rw [hshift, Nat.mul_one]
  exact sat_of_inRange (by omega)

/-- R141, R203: the conditioned sample is the reading less the bias after it. -/
theorem conditioned_eq (s : State) :
    conditioned s = fxsub build s.sampleIn.toNat (dcbNewBias s s.sampleIn.toNat) := by
  rw [conditioned, adcToFx_eq, dcbResult]

/-- R203: the new bias is a saturated sum, so the word stored reads as it. -/
theorem toInt_onSample_dcbBias (s : State) : (onSample s).dcbBias.toInt = dcbNewBias s s.sampleIn.toNat := by
  rw [onSample_eq_agcTick, adcToFx_eq]
  exact toInt_word (fxadd_inRange _ _)

/-- R151, R203: envelope 0 takes the conditioned sample and keeps its coefficients. -/
theorem env_zero_onSample (s : State) :
    (env (onSample s) 0).val.toInt = envNewVal (env s 0) (conditioned s) ∧
      (env (onSample s) 0).atk = (env s 0).atk ∧ (env (onSample s) 0).rel = (env s 0).rel := by
  rw [env_onSample, if_pos rfl]
  exact ⟨toInt_word (envNewVal_inRange _ _), rfl, rfl⟩

/-- Settles O51: the steps are those of the lemmas on `onSample`, and its fourth is `AGC.TICK` by `onSample_eq_agcTick`. -/
theorem sampleResult : Obligations.SampleResult := by
  refine ⟨by decide, refusedByMode _, fun s hm =>
    ⟨onSample s, exec_of_inRange (admitted_of_running (by decide) hm) trivial, ?_⟩⟩
  intro x0 bias cond
  have hcond : conditioned s = cond := conditioned_eq s
  obtain ⟨hval, hatk, hrel⟩ := env_zero_onSample s
  rw [hcond] at hval
  refine ⟨toInt_onSample_dcbBias s, hval, fun b hb _ => ?_, ?_, ?_, fun e he => ?_, hatk, hrel,
    band_onSample_unused s⟩
  · rw [band_onSample s b hb, hcond]
  · have htick := onSample_eq_agcTick s
    refine ⟨agcTick { s with envs := (onSample s).envs }, exec_of_inRange (admitted_of_running (by decide) hm) trivial, ?_⟩
    exact ⟨congrArg (·.agcHoldcnt) htick, congrArg (·.agcStep) htick, congrArg (·.agcSwgain) htick,
      congrArg (·.gbusLast) htick, congrArg (·.gainBus) htick⟩
  · obtain ⟨_, _, _, _, _, _, _, _, hframe⟩ := onSample_frame s
    rw [hframe]
  · rw [env_onSample, if_neg he]

end Sys2Proof.Machine
end

/-! SUPPORT and proofs: the result and the frame of the consumer's read-and-clear (spec/46_pipeline.md R208). -/

section
open Sys2Proof Sys2Proof.Config

namespace Sys2Proof.Machine

/-! ### The command word on either register (R93, R94) -/

/-- R93: the operation code of a command tells its register. -/
theorem cmdReg_eq_ccmd_iff (i : Instr) : i.cmdReg = .ccmd ↔ i.op = 0x03 := by
  cases i <;> simp [Instr.cmdReg, Instr.op]

/-- R94: a word that is a command of `CCMD` is none of `CMD`, the operation code being the same word's. -/
theorem decode_cmd_eq_none_of_ccmd {cw : BitVec 32} {i : Instr} (h : decode .ccmd cw = some i) : decode .cmd cw = none := by
  refine Option.eq_none_iff_forall_ne_some.2 fun i' h' => ?_
  obtain ⟨-, hreg, hop, -⟩ := hasFields_of_decode h
  obtain ⟨-, hreg', hop', -⟩ := hasFields_of_decode h'
  have hccmd : i'.cmdReg = .ccmd := by
    rw [cmdReg_eq_ccmd_iff, hop', ← hop, ← cmdReg_eq_ccmd_iff, hreg]
  simp [hreg'] at hccmd

/-- R208: the command word of band `b`. -/
theorem encode_take (b : Nat) : encode (.take b) = BitVec.ofNat 32 (0x03000000 + b * 0x10000) := by
  have hfields : 0x03 * 2 ^ 24 + b * 2 ^ 16 + 0 * 2 ^ 8 = 0x03000000 + b * 0x10000 := by omega
  rw [encode, Instr.op, Instr.u, Instr.j, hfields]

/-! ### The read-and-clear (R208) -/

/-- R208: the registers of band `b` that its `TAKE` may change. -/
def TakeReg (b : Nat) (reg : Reg) : Prop := reg = .tkReady b ∨ reg = .tkMag b ∨ reg = .tkOnset b ∨ reg = .outReady b

/-- R208: the other bands are left, and the rest of the band is carried over. -/
theorem take_frameExcept {p : Build} (b : Nat) (s : StateOf p) :
    FrameExcept (TakeReg b) s (writeBand b (band s b).take s) := by
  refine ⟨fun reg hne => ?_, rfl, rfl, rfl⟩
  cases reg
  case tkReady b' | tkMag b' | tkOnset b' | outReady b' =>
    have hb : b' ≠ b := by simpa [TakeReg] using hne
    simp only [readReg, band_writeBand, if_neg hb]
  case blockLen | size | magScaler | sizeScaler | wrIdx | bankRdy | fluxHist | outMag | outOnset | outOverrun =>
    simp only [readReg, band_writeBand]
    split
    next hb => subst hb; rfl
    next => rfl
  case coef | q0 | q1 | q2 | blkPos | mag | prevMag =>
    simp only [readReg, bin_writeBand]
    split
    next hb => subst hb; rfl
    next => rfl
  all_goals rfl

/-- Settles O54: the band written is `Band.take` of the band before, and `take_frameExcept` is its frame. -/
theorem takeResult : Obligations.TakeResult := by
  refine ⟨fun b hb => ?_, fun b => refusedByMode _, fun s b hm => ⟨fun hb => ?_, fun hb => ?_⟩⟩
  · have hdec : decode .ccmd (encode (.take b)) = some (.take b) :=
      decode_encode_of_wellFormed (i := .take b) (decide_eq_true hb)
    rw [← encode_take]
    exact ⟨hdec, decode_cmd_eq_none_of_ccmd hdec⟩
  · have hband : band (commandEffect (.take b) s) b = (band s b).take := band_writeBand_same s b _
    refine ⟨_, exec_of_inRange (admitted_of_running (by simp) hm) hb, ?_⟩
    rw [hband]
    exact ⟨rfl, rfl, rfl, rfl, take_frameExcept b s⟩
  · exact exec_of_not_inRange (admitted_of_running (by simp) hm) (Nat.not_lt.2 hb)

end Sys2Proof.Machine
end

/-! SUPPORT and proofs: what an operation that records an error leaves (spec/60_exceptions.md R232). -/

section
open Sys2Proof Sys2Proof.Config

namespace Sys2Proof.Machine

/-! ### A transition that keeps the rule of errors (R232) -/

section
variable {p : Build}

/-- R232, R200: a recorded cause stays, and a transition that records one changes nothing else but what the host was answered and,
for a failing `INIT`, the mode. -/
structure ErrorRule (s t : StateOf p) : Prop where
  sticky : s.cause ≠ .none → t.cause = s.cause
  precise : t.cause ≠ s.cause →
    t = { s with cause := t.cause, mode := t.mode, answers := t.answers } ∧
      (t.mode = s.mode ∨ s.mode = .unconfigured ∧ t.mode = .failed)

theorem errorRule_of_cause_eq {s t : StateOf p} (h : t.cause = s.cause) : ErrorRule s t :=
  ⟨fun _ => h, fun hne => absurd h hne⟩

theorem errorRule_raiseErr (c : Cause) (s : StateOf p) : ErrorRule s (raiseErr c s) := by
  rw [raiseErr_eq]
  exact ⟨fun hs => if_neg hs, fun _ => ⟨rfl, .inl rfl⟩⟩

/-- The host's answer is no register. -/
theorem ErrorRule.answer {s t : StateOf p} (h : ErrorRule s t) (port : Port) (addr : Addr) (data : WordOf p) :
    ErrorRule s (answer port addr data t) where
  sticky := h.sticky
  precise hne := by
    obtain ⟨ht, hmode⟩ := h.precise hne
    exact ⟨congrArg (Machine.answer port addr data) ht, hmode⟩

/-! ### The operations (R64, R65, R90) -/

theorem errorRule_regReadState (addr : Addr) (s : StateOf p) : ErrorRule s (regReadState addr s) := by
  unfold regReadState
  split
  next => exact errorRule_of_cause_eq rfl
  next => exact errorRule_raiseErr _ s

/-- R200: a failing `INIT` records its cause on top of the mode `FAILED`. -/
theorem errorRule_initPipeline {s : StateOf p} (hm : s.mode = .unconfigured) : ErrorRule s (initPipeline s) := by
  obtain ⟨-, hinit⟩ | ⟨c, -, hinit⟩ := initPipeline_cases s
  · exact errorRule_of_cause_eq (by rw [hinit, construct_cause])
  · rw [hinit, raiseErr_eq]
    exact ⟨fun hs => if_neg hs, fun _ => ⟨rfl, .inr ⟨hm, rfl⟩⟩⟩

/-- R95: the mode check lets `INIT` run in `UNCONFIGURED` only. -/
theorem errorRule_commandEffect {i : Instr} {s : StateOf p} (ha : commandAdmits i s.mode = true) :
    ErrorRule s (commandEffect i s) := by
  by_cases hi : i = .init
  · subst hi
    exact errorRule_initPipeline (of_decide_eq_true ha)
  · exact errorRule_of_cause_eq (commandEffect_cause hi s)

theorem errorRule_execAt {i : Instr} {s t : StateOf p} (h : execAt i s = .next t) : ErrorRule s t := by
  rw [execAt_eq_command] at h
  obtain ⟨ha, -, rfl⟩ | ⟨-, -, rfl⟩ | ⟨-, rfl⟩ := command_cases h
  · exact errorRule_commandEffect ha
  · exact errorRule_raiseErr _ s
  · exact errorRule_raiseErr _ s

theorem errorRule_issue {reg : CmdReg} {v : WordOf p} {s t : StateOf p} (h : issue execAt reg v s = .next t) :
    ErrorRule s t := by
  obtain ⟨i, -, hrun⟩ | ⟨-, hillegal⟩ := issue_cases execAt reg v s
  · exact errorRule_execAt (hrun ▸ h)
  · cases hillegal.symm.trans h
    exact errorRule_raiseErr _ s

@[simp] theorem storeReg_cause (reg : Reg) (v : WordOf p) (s : StateOf p) : (storeReg reg v s).cause = s.cause := by
  obtain ⟨_, _, _, _, _, _, _, _, _, _, _, _, hstore⟩ := storeReg_frame reg v s
  rw [hstore]

theorem errorRule_regWrite {port : Port} {addr : Addr} {v : WordOf p} {s t : StateOf p}
    (h : regWrite execAt port addr v s = .next t) : ErrorRule s t := by
  obtain ⟨_, _, _, -, -, -, hw⟩ | ⟨r, -, -, -, hw⟩ | ⟨-, hw⟩ | ⟨-, hw⟩ := regWrite_cases execAt port addr v s
  · exact errorRule_issue (hw ▸ h)
  · cases hw.symm.trans h
    exact errorRule_of_cause_eq (storeReg_cause r v s)
  · cases hw.symm.trans h
    exact errorRule_raiseErr _ s
  · cases hw.symm.trans h
    exact errorRule_raiseErr _ s

end

/-! ### The step (R12, R70) -/

/-- R12, R260: the step that performs the reset event. -/
theorem step_of_reset {s : State} {rest : List (BusOp build)} (h : s.pending = .reset :: rest) :
    step s = .next (resetEvent { s with pending := rest }) := by
  unfold step hostStep
  rw [h]
  rfl

theorem errorRule_step {s t : State} {op : BusOp build} {rest : List (BusOp build)} (h : s.pending = op :: rest)
    (hstep : step s = .next t) (hop : op ≠ .reset) : ErrorRule { s with pending := rest } t := by
  cases op with
  | read port addr =>
    cases (step_of_read h).symm.trans hstep
    exact (errorRule_regReadState addr _).answer port addr _
  | write port addr v =>
    rw [step_of_write h, ← execAt_build] at hstep
    exact errorRule_regWrite hstep
  | reset => exact absurd rfl hop

/-- Settles O13: the reset event clears the cause, and every other step keeps the rule of errors. -/
theorem errorsStickyAndPrecise : Obligations.ErrorsStickyAndPrecise := by
  intro s t op rest h hstep
  refine ⟨fun hop => ?_, fun hop => ?_⟩
  · subst hop
    cases (step_of_reset h).symm.trans hstep
    rfl
  · have hrule := errorRule_step h hstep hop
    exact ⟨hrule.sticky, hrule.precise⟩

end Sys2Proof.Machine
end

/-! SUPPORT and proofs: the locked configuration, the reset event, and that every operation has a next state
(spec/70_reset_and_hazards.md R260, R262, R271). -/

section
open Sys2Proof Sys2Proof.Config

namespace Sys2Proof.Machine

/-! ### States with the same configuration (R271) -/

section
variable {p : Build}

/-- R271: every configuration register reads in `t` as in `s`. -/
def SameConfiguration (s t : StateOf p) : Prop :=
  ∀ reg : Reg, reg.regClass = .configuration → readReg t reg = readReg s reg

theorem SameConfiguration.trans {s t u : StateOf p} (h : SameConfiguration s t) (h' : SameConfiguration t u) :
    SameConfiguration s u :=
  fun reg hreg => (h' reg hreg).trans (h reg hreg)

/-- An operation that may change no configuration register keeps the configuration. -/
theorem FrameExcept.sameConfiguration {dest : Reg → Prop} {s t : StateOf p} (h : FrameExcept dest s t)
    (hdest : ∀ reg, dest reg → reg.regClass ≠ .configuration) : SameConfiguration s t := by
  obtain ⟨hreg, -⟩ := h
  exact fun reg hconf => hreg reg fun hd => hdest reg hd hconf

/-- R27, R28, R34: the configuration that belongs to no band and to no envelope. -/
def blockConfiguration (s : StateOf p) : Bool × List (WordOf p) × Table (WordOf p) 0 :=
  (s.aggNorm, [s.nbands, s.dcbA0, s.agcLow, s.agcHigh, s.agcHold], s.agcSwtab)

/-- R30: `bd'` has the configuration of `bd`. -/
structure Band.SameConfiguration (bd bd' : Band p) : Prop where
  blockLen : bd'.blockLen = bd.blockLen
  size : bd'.size = bd.size
  coef : ∀ j, (bd'.bins.get j).coef = (bd.bins.get j).coef

theorem Band.SameConfiguration.refl (bd : Band p) : bd.SameConfiguration bd := ⟨rfl, rfl, fun _ => rfl⟩

theorem Band.SameConfiguration.trans {bd bd' bd'' : Band p} (h : bd.SameConfiguration bd')
    (h' : bd'.SameConfiguration bd'') : bd.SameConfiguration bd'' :=
  ⟨h'.blockLen.trans h.blockLen, h'.size.trans h.size, fun j => (h'.coef j).trans (h.coef j)⟩

/-- The configuration is the block's, the envelopes' coefficients and the bands'. -/
theorem sameConfiguration_of_parts {s t : StateOf p} (hblock : blockConfiguration t = blockConfiguration s)
    (henv : ∀ e, (env t e).atk = (env s e).atk ∧ (env t e).rel = (env s e).rel)
    (hband : ∀ b, (band s b).SameConfiguration (band t b)) : SameConfiguration s t := by
  simp only [blockConfiguration, Prod.mk.injEq, List.cons.injEq, and_true] at hblock
  obtain ⟨hnorm, ⟨hnbands, ha0, hlow, hhigh, hhold⟩, htab⟩ := hblock
  intro reg hreg
  cases reg
  case ctrl => exact congrArg (bitWord p) hnorm
  case nbands => exact hnbands
  case dcbA0 => exact ha0
  case agcLow => exact hlow
  case agcHigh => exact hhigh
  case agcHold => exact hhold
  case agcSwtab k => exact congrArg (·.get k) htab
  case envAtk e => exact (henv e).1
  case envRel e => exact (henv e).2
  case blockLen b => exact (hband b).blockLen
  case size b => exact (hband b).size
  case coef b j => exact (hband b).coef j
  all_goals cases hreg

/-- An update of registers outside the configuration's parts. -/
theorem sameConfiguration_of_eq {s t : StateOf p} (hblock : blockConfiguration t = blockConfiguration s)
    (henvs : t.envs = s.envs) (hbands : t.bands = s.bands) : SameConfiguration s t :=
  sameConfiguration_of_parts hblock (fun e => by simp [env_congr henvs])
    fun b => by rw [band_congr hbands]; exact .refl _

/-! ### The operations on a band keep its configuration (R165, R181, R207) -/

/-- R165: a bank update carries the coefficients over. -/
theorem Band.sameConfiguration_bankUpdate (bd : Band p) (x : Int) : bd.SameConfiguration (bd.bankUpdate x) := by
  refine ⟨rfl, rfl, fun j => ?_⟩
  rw [Band.get_bankUpdate]
  split
  next => exact Bin.gzUpdate_coef _ _ _ _
  next => rfl

/-- R181: taking the flux of a block carries the coefficients over. -/
theorem Band.sameConfiguration_fluxBlock (bd : Band p) : bd.SameConfiguration bd.fluxBlock := by
  refine ⟨rfl, rfl, fun j => ?_⟩
  rw [Band.get_fluxBlock]
  split <;> rfl

theorem Band.sameConfiguration_fluxUpdate (bd : Band p) (x : Int) : bd.SameConfiguration (bd.fluxUpdate x) := by
  have hbank := bd.sameConfiguration_bankUpdate x
  obtain ⟨-, h⟩ | ⟨-, h⟩ := bd.fluxUpdate_cases x
  · exact h ▸ hbank.trans (Band.sameConfiguration_fluxBlock _)
  · exact h ▸ hbank

theorem Band.sameConfiguration_publish (bd : Band p) (n : Bool) : bd.SameConfiguration (bd.publish n) :=
  ⟨rfl, rfl, fun _ => rfl⟩

/-! ### The operations on the state keep the configuration -/

theorem sameConfiguration_raiseErr (c : Cause) (s : StateOf p) : SameConfiguration s (raiseErr c s) := by
  rw [raiseErr_eq]
  exact sameConfiguration_of_eq rfl rfl rfl

theorem sameConfiguration_writeR (z : Int) (s : StateOf p) : SameConfiguration s (writeR z s) :=
  (writeR_frameExcept z s).sameConfiguration (by rintro _ rfl; decide)

theorem sameConfiguration_writeT (x : Bool) (s : StateOf p) : SameConfiguration s (writeT x s) :=
  (writeT_frameExcept x s).sameConfiguration (by rintro _ rfl; decide)

theorem sameConfiguration_envUpdate (e : Nat) (x : Int) (s : StateOf p) : SameConfiguration s (envUpdate e x s) :=
  (envUpdate_frameExcept e x s).sameConfiguration (by rintro _ rfl; exact nofun)

/-- R15: writing a band with its own configuration keeps the block's. -/
theorem sameConfiguration_writeBand {b : Nat} {bd : Band p} {s : StateOf p} (h : (band s b).SameConfiguration bd) :
    SameConfiguration s (writeBand b bd s) := by
  refine sameConfiguration_of_parts rfl (fun _ => ⟨rfl, rfl⟩) fun b' => ?_
  rw [band_writeBand]
  split
  next hb => exact hb ▸ h
  next => exact .refl _

theorem sameConfiguration_agcTick (s : StateOf p) : SameConfiguration s (agcTick s) := by
  obtain ⟨_, _, _, _, _, htick⟩ := agcTick_frame s
  rw [htick]
  exact sameConfiguration_of_eq rfl rfl rfl

/-- R203: a sample period moves envelope 0's value and runs the bands' detectors, none of which writes a coefficient. -/
theorem sameConfiguration_onSample (s : StateOf p) : SameConfiguration s (onSample s) := by
  refine sameConfiguration_of_parts ?_ (fun e => ?_) fun b => ?_
  · obtain ⟨_, _, _, _, _, _, _, _, hframe⟩ := onSample_frame s
    rw [hframe]
    rfl
  · rw [env_onSample]
    split
    next he => exact he ▸ ⟨rfl, rfl⟩
    next => exact ⟨rfl, rfl⟩
  · have hflux := (band s b).sameConfiguration_fluxUpdate (conditioned s)
    by_cases hb : b < s.nbands.toNat
    · rw [band_onSample s b hb]
      split
      next => exact hflux.trans (Band.sameConfiguration_publish _ _)
      next => exact hflux
    · rw [band_onSample_unused s b (Nat.not_lt.1 hb)]
      exact .refl _

/-- R202: a successful `INIT` writes no configuration register. -/
theorem regClass_ne_configuration_of_constructReg {s : StateOf p} {reg : Reg} (h : ConstructReg s reg) :
    reg.regClass ≠ .configuration := by
  cases reg
  case ctrl | nbands | dcbA0 | envAtk | envRel | agcLow | agcHigh | agcHold | agcSwtab | blockLen | size | coef =>
    simp [ConstructReg, BandConstructReg] at h
  all_goals exact nofun

/-- R200: `INIT` reads the configuration, whether its checks pass or fail. -/
theorem sameConfiguration_initPipeline (s : StateOf p) : SameConfiguration s (initPipeline s) := by
  obtain ⟨-, hinit⟩ | ⟨c, -, hinit⟩ := initPipeline_cases s
  · rw [hinit]
    exact (construct_frameExcept s).sameConfiguration fun _ => regClass_ne_configuration_of_constructReg
  · have hfailed : SameConfiguration s { s with mode := .failed } := sameConfiguration_of_eq rfl rfl rfl
    rw [hinit]
    exact hfailed.trans (sameConfiguration_raiseErr c _)

/-! ### No command writes a configuration register (R271) -/

theorem sameConfiguration_commandEffect (i : Instr) (s : StateOf p) : SameConfiguration s (commandEffect i s) := by
  cases i
  case init => exact sameConfiguration_initPipeline s
  case sample => exact sameConfiguration_onSample s
  case agcTick => exact sameConfiguration_agcTick s
  case fxMul | fxRcp | fxAbs | fxSqrt | fxAdd | fxSub | fxFromint | fxToint | bankAgg =>
    exact sameConfiguration_writeR _ s
  case fluxOnset => exact sameConfiguration_writeT _ s
  case dcbUpd =>
    have hbias : SameConfiguration s (dcbUpdate (opA s) s) := sameConfiguration_of_eq rfl rfl rfl
    exact hbias.trans (sameConfiguration_writeR _ _)
  case envUpd e => exact (sameConfiguration_envUpdate e _ s).trans (sameConfiguration_writeR _ _)
  case take b => exact sameConfiguration_writeBand ⟨rfl, rfl, fun _ => rfl⟩
  case gzUpd b j =>
    have hbin : SameConfiguration s (writeBand b ((band s b).gzUpdate j (opA s)) s) :=
      (gzUpdate_frameExcept b j (opA s) s).sameConfiguration (by rintro _ (rfl | rfl | rfl | rfl | rfl) <;> exact nofun)
    exact hbin.trans (sameConfiguration_writeT _ _)
  case bankUpd b =>
    exact (sameConfiguration_writeBand (Band.sameConfiguration_bankUpdate _ _)).trans (sameConfiguration_writeT _ _)
  case fluxUpd b =>
    exact (sameConfiguration_writeBand (Band.sameConfiguration_fluxUpdate _ _)).trans (sameConfiguration_writeT _ _)

theorem sameConfiguration_execAt {i : Instr} {s t : StateOf p} (h : execAt i s = .next t) : SameConfiguration s t := by
  rw [execAt_eq_command] at h
  obtain ⟨-, -, rfl⟩ | ⟨-, -, rfl⟩ | ⟨-, rfl⟩ := command_cases h
  · exact sameConfiguration_commandEffect i s
  · exact sameConfiguration_raiseErr _ s
  · exact sameConfiguration_raiseErr _ s

theorem sameConfiguration_issue {reg : CmdReg} {v : WordOf p} {s t : StateOf p} (h : issue execAt reg v s = .next t) :
    SameConfiguration s t := by
  obtain ⟨i, -, hrun⟩ | ⟨-, hillegal⟩ := issue_cases execAt reg v s
  · exact sameConfiguration_execAt (hrun ▸ h)
  · cases hillegal.symm.trans h
    exact sameConfiguration_raiseErr _ s

/-! ### The lock (R63, R271) -/

/-- R63: outside `UNCONFIGURED` a write stores at most an operand. -/
theorem sameConfiguration_regWrite {port : Port} {addr : Addr} {v : WordOf p} {s t : StateOf p}
    (h : regWrite execAt port addr v s = .next t) (hmode : s.mode ≠ .unconfigured) : SameConfiguration s t := by
  obtain ⟨_, _, _, -, -, -, hw⟩ | ⟨r, -, -, hclass, hw⟩ | ⟨-, hw⟩ | ⟨-, hw⟩ := regWrite_cases execAt port addr v s
  · exact sameConfiguration_issue (hw ▸ h)
  · cases hw.symm.trans h
    have hoperand : r.regClass = .operand := hclass.resolve_right fun hconf => hmode hconf.2
    refine (storeReg_frameExcept r v s).sameConfiguration fun reg hreg => ?_
    rw [hreg, hoperand]
    decide
  · cases hw.symm.trans h
    exact sameConfiguration_raiseErr _ s
  · cases hw.symm.trans h
    exact sameConfiguration_raiseErr _ s

theorem sameConfiguration_regReadState (addr : Addr) (s : StateOf p) : SameConfiguration s (regReadState addr s) := by
  unfold regReadState
  split
  next => exact fun _ _ => rfl
  next => exact sameConfiguration_raiseErr _ s

/-- R271: a write to a configuration register is denied outside `UNCONFIGURED`, on either port. -/
theorem regWrite_of_locked (run : Commands p) (port : Port) {addr : Addr} {reg : Reg} (v : WordOf p) {s : StateOf p}
    (hreg : decodeAddr p addr = some reg) (hconf : reg.regClass = .configuration) (hmode : s.mode ≠ .unconfigured) :
    regWrite run port addr v s = .next { s with cause := firstCause s.cause .busAccess } := by
  have hstores : ¬ Stores port reg s.mode := by simp [Stores, hconf, hmode]
  refine regWrite_of_denied run v hreg ?_ ?_ hstores
  · rintro ⟨rfl, -⟩
    cases hconf
  · rintro ⟨rfl, -⟩
    cases hconf

end

/-- R271: outside `UNCONFIGURED` every step but the reset event keeps the configuration. -/
theorem sameConfiguration_step {s t : State} {op : BusOp build} {rest : List (BusOp build)} (h : s.pending = op :: rest)
    (hstep : step s = .next t) (hmode : s.mode ≠ .unconfigured) (hop : op ≠ .reset) : SameConfiguration s t := by
  have htaken : SameConfiguration s { s with pending := rest } := sameConfiguration_of_eq rfl rfl rfl
  refine htaken.trans ?_
  cases op with
  | read port addr =>
    cases (step_of_read h).symm.trans hstep
    exact (sameConfiguration_regReadState addr _).trans (sameConfiguration_of_eq rfl rfl rfl)
  | write port addr v =>
    rw [step_of_write h, ← execAt_build] at hstep
    exact sameConfiguration_regWrite hstep hmode
  | reset => exact absurd rfl hop

/-- Settles O16: no step but reset changes the configuration, by `sameConfiguration_step`, and a write to it is the denied write
of `regWrite_of_locked`. -/
theorem configurationLocked : Obligations.ConfigurationLocked := by
  refine fun s t op rest h hstep hmode hop => ⟨sameConfiguration_step h hstep hmode hop, ?_⟩
  rintro port addr v reg rfl hreg hconf
  have hdenied : step s = .next { s with pending := rest, cause := firstCause s.cause .busAccess } :=
    (step_of_write h).trans (regWrite_of_locked exec port v hreg hconf hmode)
  exact Host.Outcome.next.inj (hstep.symm.trans hdenied)

/-! ### The reset event (R40, R260) -/

/-- R40, R194: the reset gain table at the defaults, `ONE * 2^s` for the shifts of R194. -/
theorem get_swtabReset (k : Nat) :
    (swtabReset build).get k =
      [0x04000000#32, 0x01000000#32, 0x00400000#32, 0x00200000#32, 0x00100000#32, 0x00080000#32, 0x00040000#32,
        0x00010000#32].getD k 0 :=
  Table.get_ofList _ k

/-- R40: the gain table is the only array that does not reset to 0, and it has eight entries. -/
theorem readReg_resetEvent_eq_zero (s : State) {reg : Reg} (hlow : reg ≠ .agcLow) (hhigh : reg ≠ .agcHigh)
    (hgain : reg ≠ .agcSwgain) (htab : ∀ k < 8, reg ≠ .agcSwtab k) : readReg (resetEvent s) reg = 0 := by
  cases reg
  case agcLow => exact absurd rfl hlow
  case agcHigh => exact absurd rfl hhigh
  case agcSwgain => exact absurd rfl hgain
  case agcSwtab k =>
    have hk : 8 ≤ k := Nat.not_lt.1 fun hk => htab k hk rfl
    exact (get_swtabReset k).trans (List.getD_eq_default _ _ hk)
  all_goals rfl

/-- Settles O17: the step is the reset event, whose gain table is that of `get_swtabReset` and whose other registers are those of
`readReg_resetEvent_eq_zero` and the two thresholds. -/
theorem resetRegisters : Obligations.ResetRegisters := by
  intro s rest h
  refine ⟨_, step_of_reset h, rfl, rfl, rfl, rfl, rfl, get_swtabReset 0, ?_,
    fun reg => readReg_resetEvent_eq_zero _⟩
  exact List.map_congr_left fun k _ => get_swtabReset k

/-! ### Every operation has a next state (notes/assumptions/11.md and 3.md) -/

section
variable {p : Build}

/-- R90: a command that fails a check has a next state too. -/
theorem command_completes (admits : Mode → Bool) (ok : Bool) (f : StateOf p → StateOf p) (s : StateOf p) :
    ∃ t, command admits ok f s = .next t := by
  cases hmode : admits s.mode with
  | false => exact ⟨_, command_mode hmode⟩
  | true =>
    cases ok with
    | false => exact ⟨_, command_index hmode⟩
    | true => exact ⟨_, command_effect hmode⟩

theorem execAt_completes (i : Instr) (s : StateOf p) : ∃ t, execAt i s = .next t := by
  rw [execAt_eq_command]
  exact command_completes _ _ _ s

theorem issue_completes (reg : CmdReg) (v : WordOf p) (s : StateOf p) : ∃ t, issue execAt reg v s = .next t := by
  obtain ⟨i, -, hrun⟩ | ⟨-, hillegal⟩ := issue_cases execAt reg v s
  · exact hrun ▸ execAt_completes i s
  · exact ⟨_, hillegal⟩

theorem regWrite_completes (port : Port) (addr : Addr) (v : WordOf p) (s : StateOf p) :
    ∃ t, regWrite execAt port addr v s = .next t := by
  obtain ⟨_, _, reg, -, -, -, hw⟩ | ⟨_, -, -, -, hw⟩ | ⟨-, hw⟩ | ⟨-, hw⟩ := regWrite_cases execAt port addr v s
  · exact hw ▸ issue_completes reg v s
  · exact ⟨_, hw⟩
  · exact ⟨_, hw⟩
  · exact ⟨_, hw⟩

theorem hostStep_completes (s : StateOf p) : ∃ t, hostStep execAt s = .next t := by
  obtain ⟨-, h⟩ | ⟨_, _, _, -, h⟩ | ⟨port, addr, v, _, -, h⟩ | ⟨_, -, h⟩ := hostStep_cases execAt s
  · exact ⟨_, h⟩
  · exact ⟨_, h⟩
  · exact h ▸ regWrite_completes port addr v _
  · exact ⟨_, h⟩

end

/-- Settles O6: each case of a step and of a command ends in a next state. -/
theorem everyOperationCompletes : Obligations.EveryOperationCompletes :=
  ⟨fun s => stepAt_build ▸ hostStep_completes s, fun i s => execAt_build ▸ execAt_completes i s⟩

end Sys2Proof.Machine
end

/-! SUPPORT and proofs: the round trips of the command words and of the register map, and the step of a command word
(spec/30_encoding.md R90 to R94, spec/20_memory.md R62). -/

section
open Sys2Proof Sys2Proof.Config

namespace Sys2Proof.Machine

/-- Settles O1, by `decode_encode_of_wellFormed`. -/
theorem decodeInvertsEncode : Obligations.DecodeInvertsEncode :=
  fun _ => decode_encode_of_wellFormed

/-- Settles O2, by `encode_of_decode`. -/
theorem encodeInvertsDecode : Obligations.EncodeInvertsDecode :=
  fun _ _ _ => encode_of_decode

/-- Settles O9: a register of the map is found at its address, and an address names only a register of the map. -/
theorem addressMapRoundTrip : Obligations.AddressMapRoundTrip :=
  ⟨fun _ h => decodeAddr_addr (by decide) (by decide) h, fun _ _ h => isMapped_of_decodeAddr h⟩

/-- Settles O3: sixteen closed evaluations of the decoder. -/
theorem specWordsDecode : Obligations.SpecWordsDecode := by
  unfold Obligations.SpecWordsDecode
  decide

/-- Settles O5: the write issues the word, and a word of the default build is a command word. -/
theorem stepRunsDecodedCommand : Obligations.StepRunsDecodedCommand := by
  intro s reg cw i rest hdec h
  rw [step_of_commandWrite h, issue, decodeBusWord_eq, hdec]

end Sys2Proof.Machine
end

/-! SUPPORT and proofs: what one host operation can do, said once in any build; with it the mode transitions and what port C
can change (spec/20_memory.md R61 to R65, spec/60_exceptions.md R230, R237). -/

section
open Sys2Proof Sys2Proof.Config

namespace Sys2Proof.Machine

/-! ### The outcomes of an operation (R64, R65, R90, R232, R260) -/

section
variable {p : Build}

/-- R231: the causes that an operation other than `INIT` records. -/
def operationCauses : List Cause := [.busAddr, .busAccess, .cmdIllegal, .cmdIndex, .cmdMode]

/-- What the operation `op` can make of the state `s`, in all. -/
inductive Performs (s : StateOf p) : BusOp p → StateOf p → Prop
  | read (port : Port) (addr : Addr) (data : WordOf p) : Performs s (.read port addr) (answer port addr data s)
  | readError (port : Port) (addr : Addr) (data : WordOf p) :
      Performs s (.read port addr) (answer port addr data (raiseErr .busAddr s))
  | writeError (port : Port) (addr : Addr) (v : WordOf p) {c : Cause} (hc : c ∈ operationCauses) :
      Performs s (.write port addr v) (raiseErr c s)
  | store (addr : Addr) (v : WordOf p) {reg : Reg} (hmapped : reg.isMapped p = true) (hstores : Stores .p reg s.mode) :
      Performs s (.write .p addr v) (storeReg reg v s)
  | command {i : Instr} {v : WordOf p} (hdec : decodeBusWord i.cmdReg v = some i) (ha : Admitted i s.mode)
      (hidx : IndicesInRange i s) :
      Performs s (.write (commandPort i.cmdReg) (commandAddr i.cmdReg) v) (commandEffect i s)
  | reset : Performs s .reset (resetEvent s)

/-- R91 to R93: the word on the bus is the command's own, at the command's own register. -/
theorem encode_of_decodeBusWord {reg : CmdReg} {v : WordOf p} {i : Instr} (h : decodeBusWord reg v = some i) :
    i.cmdReg = reg ∧ encode i = v.setWidth 32 := by
  unfold decodeBusWord at h
  split at h
  next => exact (encode_of_decode h).2
  next => cases h

/-- R62: a command register is reached at its address alone. -/
theorem eq_commandAddr_of_decodeAddr {addr : Addr} {r : Reg} {q : Port} {reg : CmdReg} (h : decodeAddr p addr = some r)
    (hclass : r.regClass = .command q reg) : q = commandPort reg ∧ addr = commandAddr reg := by
  obtain ⟨-, haddr⟩ := isMapped_of_decodeAddr h
  obtain ⟨rfl, rfl, rfl⟩ | ⟨rfl, rfl, rfl⟩ := regClass_command hclass
  · exact ⟨rfl, BitVec.eq_of_toNat_eq haddr.symm⟩
  · exact ⟨rfl, BitVec.eq_of_toNat_eq haddr.symm⟩

/-- R90 to R96: a word written to a command register runs its command, or records why not. -/
theorem performs_of_issue {reg : CmdReg} {v : WordOf p} {s t : StateOf p} (h : issue execAt reg v s = .next t) :
    Performs s (.write (commandPort reg) (commandAddr reg) v) t := by
  obtain ⟨i, hdec, hrun⟩ | ⟨-, hillegal⟩ := issue_cases execAt reg v s
  · obtain ⟨rfl, -⟩ := encode_of_decodeBusWord hdec
    rw [hrun, execAt_eq_command] at h
    obtain ⟨ha, hidx, rfl⟩ | ⟨-, -, rfl⟩ | ⟨-, rfl⟩ := command_cases h
    · exact .command hdec ((commandAdmits_iff _ _).1 ha) ((commandIndexOk_iff _ _).1 hidx)
    · exact .writeError _ _ _ (by decide)
    · exact .writeError _ _ _ (by decide)
  · cases hillegal.symm.trans h
    exact .writeError _ _ _ (by decide)

/-- R63, R65: a register write runs a command, stores, or records an error. -/
theorem performs_of_regWrite {port : Port} {addr : Addr} {v : WordOf p} {s t : StateOf p}
    (h : regWrite execAt port addr v s = .next t) : Performs s (.write port addr v) t := by
  obtain ⟨r, q, reg, hr, hclass, rfl, hw⟩ | ⟨r, hr, rfl, hclass, hw⟩ | ⟨-, hw⟩ | ⟨-, hw⟩ :=
    regWrite_cases execAt port addr v s
  · obtain ⟨rfl, rfl⟩ := eq_commandAddr_of_decodeAddr hr hclass
    exact performs_of_issue (hw ▸ h)
  · cases hw.symm.trans h
    obtain ⟨hmapped, -⟩ := isMapped_of_decodeAddr hr
    exact .store addr v hmapped ⟨rfl, hclass⟩
  · cases hw.symm.trans h
    exact .writeError _ _ _ (by decide)
  · cases hw.symm.trans h
    exact .writeError _ _ _ (by decide)

theorem performs_of_perform {op : BusOp p} {s t : StateOf p} (h : perform execAt op s = .next t) : Performs s op t := by
  cases op with
  | read port addr =>
    cases h
    unfold regReadState
    split
    next => exact .read port addr _
    next => exact .readError port addr _
  | write port addr v => exact performs_of_regWrite h
  | reset =>
    cases h
    exact .reset

/-- R12, R70: a step is the next operation, or nothing while none is to come. -/
theorem stepAt_cases {s t : StateOf p} (h : stepAt s = .next t) :
    (s.pending = [] ∧ t = s) ∨ ∃ op rest, s.pending = op :: rest ∧ Performs { s with pending := rest } op t := by
  unfold stepAt hostStep at h
  split at h
  next hp =>
    cases h
    exact .inl ⟨hp, rfl⟩
  next op rest hp => exact .inr ⟨op, rest, hp, performs_of_perform h⟩

end

theorem performs_of_step {s t : State} {op : BusOp build} {rest : List (BusOp build)} (h : s.pending = op :: rest)
    (hstep : step s = .next t) : Performs { s with pending := rest } op t := by
  rw [← stepAt_build] at hstep
  obtain ⟨hnil, -⟩ | ⟨op', rest', hcons, hperf⟩ := stepAt_cases hstep
  · cases h.symm.trans hnil
  · cases h.symm.trans hcons
    exact hperf

/-! ### The fields an operation leaves -/

section
variable {p : Build}

@[simp] theorem raiseErr_mode (c : Cause) (s : StateOf p) : (raiseErr c s).mode = s.mode := by
  rw [raiseErr_eq]

@[simp] theorem raiseErr_gainBus (c : Cause) (s : StateOf p) : (raiseErr c s).gainBus = s.gainBus := by
  rw [raiseErr_eq]

/-- R232: a recorded error changes `STATUS` alone. -/
theorem raiseErr_frameExcept (c : Cause) (s : StateOf p) : FrameExcept (· = .status) s (raiseErr c s) := by
  rw [raiseErr_eq]
  refine ⟨fun reg hne => ?_, rfl, rfl, rfl⟩
  cases reg
  case status => exact absurd rfl hne
  all_goals rfl

@[simp] theorem storeReg_mode (reg : Reg) (v : WordOf p) (s : StateOf p) : (storeReg reg v s).mode = s.mode := by
  obtain ⟨_, _, _, _, _, _, _, _, _, _, _, _, hstore⟩ := storeReg_frame reg v s
  rw [hstore]

/-- R230: only `INIT` changes the mode. -/
theorem commandEffect_mode {i : Instr} (h : i ≠ .init) (s : StateOf p) : (commandEffect i s).mode = s.mode := by
  cases i
  case init => exact absurd rfl h
  case sample =>
    obtain ⟨_, _, _, _, _, _, _, _, hsample⟩ := onSample_frame s
    rw [commandEffect, hsample]
  case agcTick =>
    obtain ⟨_, _, _, _, _, htick⟩ := agcTick_frame s
    rw [commandEffect, htick]
  all_goals rfl

/-- R200: `INIT` leads to `RUNNING` or to `FAILED`. -/
theorem initPipeline_mode (s : StateOf p) : (initPipeline s).mode = .running ∨ (initPipeline s).mode = .failed := by
  obtain ⟨-, hinit⟩ | ⟨c, -, hinit⟩ := initPipeline_cases s
  · exact .inl (by rw [hinit, construct_mode])
  · exact .inr (by rw [hinit, raiseErr_mode])

/-- R95: only `UNCONFIGURED` admits `INIT`. -/
theorem admitted_init_iff (m : Mode) : Admitted .init m ↔ m = .unconfigured := by
  cases m <;> simp [Admitted, isFx]

/-- R95: a command other than `INIT` is an `FX` command or runs in `RUNNING`. -/
theorem isFx_or_running_of_admitted {i : Instr} (hi : i ≠ .init) {m : Mode} (h : Admitted i m) : isFx i ∨ m = .running := by
  cases m with
  | unconfigured => exact .inl (h.resolve_left hi)
  | running => exact .inr rfl
  | failed => exact h.elim

/-- R93: the one command of the consumer's register is `TAKE`. -/
theorem eq_take_of_cmdReg {i : Instr} (h : i.cmdReg = .ccmd) : ∃ b, i = .take b := by
  cases i
  case take b => exact ⟨b, rfl⟩
  all_goals cases h

theorem commandPort_eq_c_iff (reg : CmdReg) : commandPort reg = .c ↔ reg = .ccmd := by
  cases reg <;> decide

end

/-! ### The modes (R230) -/

/-- Settles O14: an operation other than reset changes the mode only as the effect of `INIT`, whose word and address are its own. -/
theorem modeTransitions : Obligations.ModeTransitions := by
  intro s t op rest h hstep
  have hperf := performs_of_step h hstep
  refine ⟨fun hop => ?_, fun hop => ?_⟩
  · subst hop
    cases hperf
    rfl
  · cases hperf with
    | read => exact .inl rfl
    | readError => exact .inl (raiseErr_mode _ _)
    | writeError => exact .inl (raiseErr_mode _ _)
    | store => exact .inl (storeReg_mode _ _ _)
    | reset => exact absurd rfl hop
    | @command i v hdec ha =>
      by_cases hi : i = .init
      · subst hi
        obtain ⟨-, henc⟩ := encode_of_decodeBusWord hdec
        have hv : v = 0x01000000#32 := ((BitVec.setWidth_eq v).symm.trans henc.symm).trans (by decide)
        exact .inr ⟨(admitted_init_iff _).1 ha, initPipeline_mode _, by rw [hv]; rfl⟩
      · exact .inl (commandEffect_mode hi _)

/-! ### The consumer's port (R61, R237) -/

/-- R237: the registers that an operation of the consumer may change. -/
def ConsumerReg (reg : Reg) : Prop := reg = .status ∨ ∃ b, TakeReg b reg

/-- R61, R237: an operation on port C keeps the mode, the gain bus and every register but the consumer's. -/
theorem performs_consumer {p : Build} {s t : StateOf p} {op : BusOp p} (h : Performs s op t)
    (hop : (∃ addr, op = .read .c addr) ∨ ∃ addr v, op = .write .c addr v) :
    t.mode = s.mode ∧ t.gainBus = s.gainBus ∧ ∀ reg, ¬ ConsumerReg reg → readReg t reg = readReg s reg := by
  have herror (c : Cause) : ∀ reg, ¬ ConsumerReg reg → readReg (raiseErr c s) reg = readReg s reg :=
    fun reg hreg => (raiseErr_frameExcept c s).1 reg fun hstatus => hreg (.inl hstatus)
  cases h with
  | read => exact ⟨rfl, rfl, fun reg _ => by cases reg <;> rfl⟩
  | readError =>
    refine ⟨raiseErr_mode _ _, raiseErr_gainBus _ _, fun reg hreg => ?_⟩
    rw [← herror .busAddr reg hreg]
    cases reg <;> rfl
  | writeError => exact ⟨raiseErr_mode _ _, raiseErr_gainBus _ _, herror _⟩
  | store => simp at hop
  | reset => simp at hop
  | @command i v hdec ha =>
    have hport : commandPort i.cmdReg = .c := by simpa using hop
    obtain ⟨b, rfl⟩ := eq_take_of_cmdReg ((commandPort_eq_c_iff _).1 hport)
    obtain ⟨hregs, hbus, -⟩ := take_frameExcept b s
    exact ⟨rfl, hbus, fun reg hreg => hregs reg fun htake => hreg (.inr ⟨b, htake⟩)⟩

/-- Settles O15, by `performs_consumer`. -/
theorem consumerIsolation : Obligations.ConsumerIsolation := by
  intro s t op rest h hstep hop
  obtain ⟨hmode, hbus, hregs⟩ := performs_consumer (performs_of_step h hstep) hop
  refine ⟨hmode, hbus, fun reg hstatus htake => (hregs reg ?_).trans (by cases reg <;> rfl)⟩
  rintro (hreg | ⟨b, hreg⟩)
  · exact hstatus hreg
  · obtain ⟨h1, h2, h3, h4⟩ := htake b
    obtain hreg | hreg | hreg | hreg := hreg
    exacts [h4 hreg, h2 hreg, h3 hreg, h1 hreg]

end Sys2Proof.Machine
end

/-! SUPPORT and proofs: what a command can make of a band, said once in any build; with it that a ready indicator is cleared only by
`TAKE`, and what a sample period publishes (spec/43_goertzel.md R163, R165; spec/44_spectral_flux.md R182; spec/46_pipeline.md
R203, R207, R208). -/

section
open Sys2Proof Sys2Proof.Config

namespace Sys2Proof.Machine

/-! ### The steps of a band -/

section
variable {p : Build}

/-- What one operation of the model makes of a band in use, `TAKE` and `INIT` apart. -/
inductive BandStep (bd : Band p) : Band p → Prop
  | gz (j : Nat) (x : Int) (hj : j < bd.size.toNat) : BandStep bd (bd.gzUpdate j x)
  | bank (x : Int) : BandStep bd (bd.bankUpdate x)
  | flux : BandStep bd bd.fluxBlock
  | publish (n : Bool) : BandStep bd (bd.publish n)

/-- Some steps of a band, one after the other. -/
abbrev BandSteps (bd bd' : Band p) : Prop := Relation.ReflTransGen BandStep bd bd'

/-- What every step of a band keeps, every sequence of them keeps. -/
theorem BandSteps.keeps {P : Band p → Prop} (hstep : ∀ bd bd', BandStep bd bd' → P bd → P bd') {bd bd' : Band p}
    (h : BandSteps bd bd') (hP : P bd) : P bd' := by
  induction h with
  | refl => exact hP
  | tail _ hlast ih => exact hstep _ _ hlast ih

theorem bandSteps_fluxUpdate (bd : Band p) (x : Int) : BandSteps bd (bd.fluxUpdate x) := by
  have hbank : BandSteps bd (bd.bankUpdate x) := .single (.bank x)
  obtain ⟨-, h⟩ | ⟨-, h⟩ := bd.fluxUpdate_cases x
  · exact h ▸ hbank.tail .flux
  · exact h ▸ hbank

theorem bandSteps_writeBand {b b' : Nat} {bd : Band p} {s : StateOf p} (h : BandSteps (band s b) bd) :
    BandSteps (band s b') (band (writeBand b bd s) b') := by
  rw [band_writeBand]
  split
  next hb => exact hb ▸ h
  next => exact .refl

theorem bandSteps_onSample (s : StateOf p) (b : Nat) : BandSteps (band s b) (band (onSample s) b) := by
  have hflux := bandSteps_fluxUpdate (band s b) (conditioned s)
  by_cases hb : b < s.nbands.toNat
  · rw [band_onSample s b hb]
    split
    next => exact hflux.tail (.publish _)
    next => exact hflux
  · rw [band_onSample_unused s b (Nat.not_lt.1 hb)]

/-- Of a command other than `INIT`, a band makes some steps, or is taken by `TAKE`. -/
theorem bandSteps_commandEffect {i : Instr} {s : StateOf p} (hi : i ≠ .init) (hidx : IndicesInRange i s) (b : Nat) :
    BandSteps (band s b) (band (commandEffect i s) b) ∨
      i = .take b ∧ band (commandEffect i s) b = (band s b).take := by
  cases i
  case init => exact absurd rfl hi
  case sample => exact .inl (bandSteps_onSample s b)
  case take b' =>
    by_cases hb : b = b'
    · subst hb
      exact .inr ⟨rfl, band_writeBand_same s b _⟩
    · refine .inl ?_
      rw [commandEffect, band_writeBand, if_neg hb]
  case gzUpd b' j =>
    obtain ⟨-, hj⟩ := hidx
    exact .inl (bandSteps_writeBand (.single (.gz j (opA s) hj)))
  case bankUpd b' => exact .inl (bandSteps_writeBand (.single (.bank (opA s))))
  case fluxUpd b' => exact .inl (bandSteps_writeBand (bandSteps_fluxUpdate _ _))
  case agcTick =>
    obtain ⟨_, _, _, _, _, htick⟩ := agcTick_frame s
    rw [commandEffect, htick]
    exact .inl .refl
  all_goals exact .inl .refl

/-- R96: of a command other than `INIT` only the bands in use take a step. -/
theorem band_commandEffect_unused {i : Instr} {s : StateOf p} (hi : i ≠ .init) (hidx : IndicesInRange i s) {b : Nat}
    (hb : s.nbands.toNat ≤ b) : band (commandEffect i s) b = band s b := by
  have hother (b' : Nat) (bd : Band p) (hb' : b' < s.nbands.toNat) : band (writeBand b' bd s) b = band s b := by
    rw [band_writeBand, if_neg (by omega)]
  cases i
  case init => exact absurd rfl hi
  case sample => exact band_onSample_unused s b hb
  case take b' => exact hother b' _ hidx
  case gzUpd b' j =>
    obtain ⟨hb', -⟩ := hidx
    exact hother b' _ hb'
  case bankUpd b' => exact hother b' _ hidx
  case fluxUpd b' => exact hother b' _ hidx
  case agcTick =>
    obtain ⟨_, _, _, _, _, htick⟩ := agcTick_frame s
    rw [commandEffect, htick]
    rfl
  all_goals rfl

/-- What every step of a band and `TAKE` keep, every command but `INIT` keeps. -/
theorem commandEffect_keeps_band {P : Band p → Prop} (hstep : ∀ bd bd', BandStep bd bd' → P bd → P bd')
    (htake : ∀ bd, P bd → P bd.take) {i : Instr} {s : StateOf p} (hi : i ≠ .init) (hidx : IndicesInRange i s) {b : Nat}
    (hP : P (band s b)) : P (band (commandEffect i s) b) := by
  obtain hsteps | ⟨-, hband⟩ := bandSteps_commandEffect hi hidx b
  · exact hsteps.keeps hstep hP
  · exact hband ▸ htake _ hP

/-- R207: no step of a band clears `OUT_READY`. -/
theorem BandStep.outReady {bd bd' : Band p} (h : BandStep bd bd') (hready : bd.outReady = true) : bd'.outReady = true := by
  cases h with
  | gz => exact hready
  | bank => exact hready
  | flux => exact hready
  | publish => rfl

/-- R40: a stored word keeps a band's published registers. -/
theorem storeReg_outReady (reg : Reg) (v : WordOf p) (s : StateOf p) (b : Nat) :
    (band (storeReg reg v s) b).outReady = (band s b).outReady := by
  cases reg
  case blockLen b' | size b' | coef b' j =>
    simp only [storeReg, band_writeBand]
    split
    next hb => rw [hb]
    next => rfl
  all_goals rfl

end

/-- R93: the write of `TAKE`'s word is `TAKE`'s own operation. -/
theorem commandOp_of_decodeBusWord {i : Instr} {v : Word} (h : decodeBusWord i.cmdReg v = some i) :
    BusOp.write (commandPort i.cmdReg) (commandAddr i.cmdReg) v = commandOp build i := by
  obtain ⟨-, henc⟩ := encode_of_decodeBusWord h
  have hv : v = (encode i).setWidth 32 := by rw [henc, BitVec.setWidth_eq, BitVec.setWidth_eq]
  rw [hv]
  rfl

/-- Settles O55: of the commands that `RUNNING` admits only `TAKE b` clears the indicator of band `b`, by
`bandSteps_commandEffect`. -/
theorem readyClearedOnlyByTake : Obligations.ReadyClearedOnlyByTake := by
  intro s t op rest b h hstep hm hready hreset htake _
  cases performs_of_step h hstep with
  | read => exact hready
  | readError => rw [raiseErr_eq]; exact hready
  | writeError => rw [raiseErr_eq]; exact hready
  | store => rw [storeReg_outReady]; exact hready
  | reset => exact absurd rfl hreset
  | @command i v hdec ha hidx =>
    have hi : i ≠ .init := by
      rintro rfl
      simp [hm, admitted_init_iff] at ha
    obtain hsteps | ⟨rfl, -⟩ := bandSteps_commandEffect hi hidx b
    · exact hsteps.keeps (P := fun bd => bd.outReady = true) (fun _ _ => BandStep.outReady) hready
    · exact absurd (commandOp_of_decodeBusWord hdec) htake

/-! ### What a sample period publishes (R207) -/

/-- R207: the counter of overruns counts up to the largest word. -/
theorem toNat_overrun (bd : Band build) :
    bd.overrun.toNat = if bd.outReady then min (bd.outOverrun.toNat + 1) 4294967295 else bd.outOverrun.toNat := by
  have hmin : min (bd.outOverrun.toNat + 1) 4294967295 < 4294967296 := by omega
  unfold Band.overrun
  split
  next => exact Nat.mod_eq_of_lt hmin
  next => rfl

/-- Settles O52: the band after the tick is that of `band_onSample`, and a flux update leaves the published registers. -/
theorem samplePublishes : Obligations.SamplePublishes := by
  intro s b hm hb _
  refine ⟨onSample s, exec_of_inRange (admitted_of_running (by decide) hm) trivial, ?_⟩
  rw [band_onSample s b hb]
  obtain ⟨-, -, -, -, hmag, honset, hready, hover, htkMag, htkOnset, htkReady, hrdy⟩ :=
    (band s b).fluxUpdate_frame (conditioned s)
  generalize (band s b).fluxUpdate (conditioned s) = bd at *
  split
  next hcomplete =>
    refine ⟨hrdy, htkMag, htkOnset, htkReady, fun _ => ⟨?_, rfl, rfl, ?_⟩, fun hno => absurd hcomplete (by simp [hno])⟩
    · exact toInt_word ((fits_build _).1 (bd.bankAgg_fits _))
    · rw [Band.publish_outOverrun, toNat_overrun, hready, hover]
  next hcomplete =>
    exact ⟨hrdy, htkMag, htkOnset, htkReady, fun hyes => absurd hyes hcomplete, fun _ => ⟨hmag, honset, hready, hover⟩⟩

end Sys2Proof.Machine
end

/-! SUPPORT and proofs: the block positions of a bank's bins, and the result of `BANK.UPD` (spec/10_state.md R32,
spec/43_goertzel.md R165, spec/46_pipeline.md R206). -/

section
open Sys2Proof Sys2Proof.Config

namespace Sys2Proof.Machine

/-! ### Bins at one position (R32) -/

section
variable {p : Build}

/-- R161: a bin's position after an update is its position before and the block length. -/
theorem blkPos_gzUpdate (n scaler : WordOf p) (x : Int) (bn : Bin p) :
    (bn.gzUpdate n scaler x).blkPos = if bn.blkPos.toNat + 1 = n.toNat then 0 else bn.blkPos + 1 := by
  obtain ⟨hlast, h⟩ | ⟨hlast, h⟩ := bn.gzUpdate_cases n scaler x
  · rw [h, if_pos hlast]
  · rw [h, if_neg hlast]

theorem blkPos_bankUpdate (bd : Band p) (x : Int) {j : Nat} (hj : j < bd.size.toNat) :
    ((bd.bankUpdate x).bins.get j).blkPos =
      if (bd.bins.get j).blkPos.toNat + 1 = bd.blockLen.toNat then 0 else (bd.bins.get j).blkPos + 1 := by
  rw [Band.get_bankUpdate, if_pos hj, blkPos_gzUpdate]

/-- R181: taking the flux of a block moves no position. -/
theorem blkPos_fluxBlock (bd : Band p) (j : Nat) : (bd.fluxBlock.bins.get j).blkPos = (bd.bins.get j).blkPos := by
  rw [Band.get_fluxBlock]
  split <;> rfl

theorem blkPos_fluxUpdate (bd : Band p) (x : Int) (j : Nat) :
    ((bd.fluxUpdate x).bins.get j).blkPos = ((bd.bankUpdate x).bins.get j).blkPos := by
  obtain ⟨-, h⟩ | ⟨-, h⟩ := bd.fluxUpdate_cases x
  · rw [h, blkPos_fluxBlock]
  · rw [h]

/-- R32: bins in step take the same branch of the update. -/
theorem bankSync_bankUpdate {bd : Band p} (hsize : 1 ≤ bd.size.toNat) (h : BankSync bd) (x : Int) :
    BankSync (bd.bankUpdate x) := by
  intro j hj
  rw [blkPos_bankUpdate bd x hj, blkPos_bankUpdate bd x hsize, h j hj]

theorem bankSync_fluxUpdate {bd : Band p} (hsize : 1 ≤ bd.size.toNat) (h : BankSync bd) (x : Int) :
    BankSync (bd.fluxUpdate x) := by
  obtain ⟨-, hsize', -⟩ := bd.fluxUpdate_frame x
  intro j hj
  rw [hsize'] at hj
  rw [blkPos_fluxUpdate, blkPos_fluxUpdate, bankSync_bankUpdate hsize h x j hj]

theorem bankSync_writeBand {s : StateOf p} {b b' : Nat} {bd : Band p} (h : BankSync (band s b'))
    (hbd : b' = b → BankSync bd) : BankSync (band (writeBand b bd s) b') := by
  rw [band_writeBand]
  split
  next hb => exact hbd hb
  next => exact h

/-- R32: the two updates of a whole bank and the sample period keep a band in step. -/
theorem bankSync_commandEffect {s : StateOf p} {b : Nat} (hb : b < s.nbands.toNat) (hsize : 1 ≤ (band s b).size.toNat)
    (h : BankSync (band s b)) {i : Instr} (hi : (∃ b', i = .bankUpd b') ∨ (∃ b', i = .fluxUpd b') ∨ i = .sample) :
    BankSync (band (commandEffect i s) b) := by
  obtain ⟨b', rfl⟩ | ⟨b', rfl⟩ | rfl := hi
  · refine bankSync_writeBand h ?_
    rintro rfl
    exact bankSync_bankUpdate hsize h _
  · refine bankSync_writeBand h ?_
    rintro rfl
    exact bankSync_fluxUpdate hsize h _
  · have hflux := bankSync_fluxUpdate hsize h (conditioned s)
    rw [commandEffect, band_onSample s b hb]
    split
    next => exact hflux
    next => exact hflux

/-- R202: `INIT` puts every bin of a band in use at position 0. -/
theorem bankSync_construct {s : StateOf p} (hvalid : ConfigValid s) {b : Nat} (hb : b < s.nbands.toNat) :
    BankSync (band (construct s) b) := by
  obtain ⟨-, -, hbands⟩ := hvalid
  obtain ⟨-, -, hsize, hmaxbins⟩ := hbands b hb
  have hzero (j : Nat) (hj : j < p.MAXBINS) : ((band (construct s) b).bins.get j).blkPos = 0 := by
    rw [← bin_eq, bin_construct, if_pos ⟨hb, hj⟩]
    rfl
  intro j hj
  rw [band_construct, if_pos hb, Band.construct_size] at hj
  rw [hzero j (by omega), hzero 0 (by omega)]

theorem bankSync_raiseErr {s : StateOf p} {b : Nat} (h : BankSync (band s b)) (c : Cause) :
    BankSync (band (raiseErr c s) b) := by
  rw [raiseErr_eq]
  exact h

end

/-- Settles O24: an admitted command keeps the band in step by `bankSync_commandEffect`, a refused one leaves it. -/
theorem bankSyncKept : Obligations.BankSyncKept := by
  refine ⟨fun s t i b hm hb hsize h hi hexec => ?_, fun s hm hvalid => ?_⟩
  · rw [exec_eq_command] at hexec
    obtain ⟨-, -, rfl⟩ | ⟨-, -, rfl⟩ | ⟨-, rfl⟩ := command_cases hexec
    · exact bankSync_commandEffect hb hsize h hi
    · exact bankSync_raiseErr h _
    · exact bankSync_raiseErr h _
  · refine ⟨construct s, ?_, rfl, fun b hb => bankSync_construct hvalid hb⟩
    rw [exec_init_of_unconfigured hm, initPipeline_of_configValid hvalid]

/-! ### A bank after a number of updates (R165, R206) -/

/-- R165: the band has a bin, blocks of `n` samples, and every bin stands where `k` updates from position 0 lead. -/
structure Band.AtPosition (n k : Nat) (bd : Band build) : Prop where
  blockLen : bd.blockLen.toNat = n
  blockLen_pos : 0 < n
  size_pos : 0 < bd.size.toNat
  blkPos : ∀ j < bd.size.toNat, (bd.bins.get j).blkPos.toNat = k % n

/-- One more than the position `k mod n` is `n` exactly when `n` divides `k + 1`. -/
theorem mod_succ_eq_iff_dvd {n : Nat} (hn : 0 < n) (k : Nat) : k % n + 1 = n ↔ n ∣ k + 1 := by
  have hlt := Nat.mod_lt k hn
  by_cases h1 : n = 1
  · simp [h1, Nat.mod_one]
  · rw [Nat.dvd_iff_mod_eq_zero, Nat.add_mod_eq_ite, Nat.mod_eq_of_lt (by omega : 1 < n)]
    split <;> omega

/-- A position off the boundary advances by one. -/
theorem mod_succ_of_ne {n k : Nat} (hn : 0 < n) (h : k % n + 1 ≠ n) : (k + 1) % n = k % n + 1 := by
  have hlt := Nat.mod_lt k hn
  rw [Nat.add_mod_eq_ite, Nat.mod_eq_of_lt (by omega : 1 < n), if_neg (by omega)]

/-- R165: the flag of the update numbered `k + 1` tells whether the block length divides its number. -/
theorem Band.AtPosition.bankReady_iff {n k : Nat} {bd : Band build} (h : bd.AtPosition n k) :
    bd.bankReady = true ↔ n ∣ k + 1 := by
  rw [← mod_succ_eq_iff_dvd h.blockLen_pos, ← h.blkPos 0 h.size_pos, Band.bankReady, Bin.completes, decide_eq_true_eq,
    h.blockLen]

/-- R161, R165: an update moves every bin on by one, or back to 0 at a boundary. -/
theorem Band.AtPosition.bankUpdate {n k : Nat} {bd : Band build} (h : bd.AtPosition n k) (x : Int) :
    (bd.bankUpdate x).AtPosition n (k + 1) := by
  refine ⟨h.blockLen, h.blockLen_pos, h.size_pos, fun j hj => ?_⟩
  have hpos := h.blkPos j hj
  rw [blkPos_bankUpdate bd x hj, hpos, h.blockLen]
  split
  next hlast => exact (Nat.mod_eq_zero_of_dvd ((mod_succ_eq_iff_dvd h.blockLen_pos k).1 hlast)).symm
  next hlast =>
    have hn : n < 2 ^ 32 := h.blockLen ▸ bd.blockLen.isLt
    have hlt := Nat.mod_lt k h.blockLen_pos
    rw [mod_succ_of_ne h.blockLen_pos hlast, BitVec.toNat_add_of_lt, hpos]
    · rfl
    · rw [hpos]
      exact (by omega : k % n + 1 < 2 ^ 32)

theorem Band.AtPosition.fluxUpdate {n k : Nat} {bd : Band build} (h : bd.AtPosition n k) (x : Int) :
    (bd.fluxUpdate x).AtPosition n (k + 1) := by
  obtain ⟨hlen, hsize, -⟩ := bd.fluxUpdate_frame x
  refine ⟨by rw [hlen, h.blockLen], h.blockLen_pos, by rw [hsize]; exact h.size_pos, fun j hj => ?_⟩
  rw [hsize] at hj
  rw [blkPos_fluxUpdate]
  exact (h.bankUpdate x).blkPos j hj

/-- R165: a band in use whose bins stand at 0 has taken no update yet. -/
theorem atPosition_zero {s : State} (hvalid : ConfigValid s) {b : Nat} (hb : b < s.nbands.toNat)
    (hzero : ∀ j < (band s b).size.toNat, (bin s b j).blkPos = 0) :
    (band s b).AtPosition (band s b).blockLen.toNat 0 := by
  obtain ⟨-, -, hbands⟩ := hvalid
  obtain ⟨hblock, -, hsize, -⟩ := hbands b hb
  refine ⟨rfl, hblock, hsize, fun j hj => ?_⟩
  rw [← bin_eq, hzero j hj, Nat.zero_mod]
  rfl

/-! ### A list of updates (R165) -/

theorem after_of_exec {i : Instr} {s t : State} (h : exec i s = .next t) : after i s = t := by
  rw [after, h]

/-- R165: in `RUNNING` with band `b` in use one sample of a feed is one bank update. -/
theorem bankFeed_concat (b : Nat) (xs : List Word) (x : Word) (s : State) (hm : (bankFeed b xs s).mode = .running)
    (hb : b < (bankFeed b xs s).nbands.toNat) :
    bankFeed b (xs ++ [x]) s = commandEffect (.bankUpd b) { bankFeed b xs s with a := x } := by
  have hfeed : bankFeed b (xs ++ [x]) s = after (.bankUpd b) { bankFeed b xs s with a := x } := by
    simp only [bankFeed, List.foldl_append, List.foldl_cons, List.foldl_nil]
  rw [hfeed]
  exact after_of_exec (exec_of_inRange (admitted_of_running (by simp) hm) hb)

/-- R165: what a feed of `xs.length` updates leaves of the mode, the number of bands and band `b`. -/
theorem bankFeed_atPosition {s : State} {b n : Nat} (hm : s.mode = .running) (hb : b < s.nbands.toNat)
    (h : (band s b).AtPosition n 0) (xs : List Word) :
    (bankFeed b xs s).mode = .running ∧ b < (bankFeed b xs s).nbands.toNat ∧
      (band (bankFeed b xs s) b).AtPosition n xs.length := by
  induction xs using List.reverseRecOn with
  | nil => exact ⟨hm, hb, h⟩
  | append_singleton xs x ih =>
    obtain ⟨hm', hb', hpos⟩ := ih
    rw [bankFeed_concat b xs x s hm' hb', band_commandEffect_bankUpd, List.length_append]
    generalize bankFeed b xs s = u at hm' hb' hpos ⊢
    exact ⟨hm', hb', hpos.bankUpdate _⟩

/-- Settles O42: the last update finds the band where the updates before it lead, by `bankFeed_atPosition`. -/
theorem bankSynchrony : Obligations.BankSynchrony := by
  intro s b xs hm hvalid hb hzero hne
  obtain ⟨ys, x, rfl⟩ := (List.eq_nil_or_concat xs).resolve_left hne
  obtain ⟨hm', hb', hpos⟩ := bankFeed_atPosition hm hb (atPosition_zero hvalid hb hzero) ys
  rw [List.concat_eq_append, List.length_append, List.length_singleton, ← hpos.bankReady_iff, bankFeed_concat _ _ _ _ hm' hb',
    band_commandEffect_bankUpd]
  exact ⟨Iff.rfl, Iff.rfl⟩

/-! ### A list of sample periods (R206) -/

theorem sampleFeed_concat (raws : List (BitVec build.ADC_BITS)) (raw : BitVec build.ADC_BITS) (s : State)
    (hm : (sampleFeed raws s).mode = .running) :
    sampleFeed (raws ++ [raw]) s = onSample { sampleFeed raws s with sampleIn := raw } := by
  have hfeed : sampleFeed (raws ++ [raw]) s = after .sample { sampleFeed raws s with sampleIn := raw } := by
    simp only [sampleFeed, List.foldl_append, List.foldl_cons, List.foldl_nil]
  rw [hfeed]
  exact after_of_exec (exec_of_inRange (admitted_of_running (by simp) hm) trivial)

/-- R203: a sample period moves a band in use on by one position, and its flag tells of the boundary. -/
theorem Band.AtPosition.onSample {s : State} {b n k : Nat} (hb : b < s.nbands.toNat) (h : (band s b).AtPosition n k) :
    (band (onSample s) b).AtPosition n (k + 1) ∧ (band (onSample s) b).bankRdy = (band s b).bankReady := by
  have hflux := h.fluxUpdate (conditioned s)
  obtain ⟨-, -, -, -, -, -, -, -, -, -, -, hrdy⟩ := (band s b).fluxUpdate_frame (conditioned s)
  rw [band_onSample s b hb]
  split
  next => exact ⟨⟨hflux.blockLen, hflux.blockLen_pos, hflux.size_pos, hflux.blkPos⟩, hrdy⟩
  next => exact ⟨hflux, hrdy⟩

theorem onSample_mode_nbands {p : Build} (s : StateOf p) : (onSample s).mode = s.mode ∧ (onSample s).nbands = s.nbands := by
  obtain ⟨_, _, _, _, _, _, _, _, hframe⟩ := onSample_frame s
  rw [hframe]
  exact ⟨rfl, rfl⟩

theorem sampleFeed_atPosition {s : State} {b n : Nat} (hm : s.mode = .running) (hb : b < s.nbands.toNat)
    (h : (band s b).AtPosition n 0) (raws : List (BitVec build.ADC_BITS)) :
    (sampleFeed raws s).mode = .running ∧ b < (sampleFeed raws s).nbands.toNat ∧
      (band (sampleFeed raws s) b).AtPosition n raws.length := by
  induction raws using List.reverseRecOn with
  | nil => exact ⟨hm, hb, h⟩
  | append_singleton raws raw ih =>
    obtain ⟨hm', hb', hpos⟩ := ih
    obtain ⟨hmode, hnbands⟩ := onSample_mode_nbands { sampleFeed raws s with sampleIn := raw }
    obtain ⟨hnext, -⟩ := Band.AtPosition.onSample (s := { sampleFeed raws s with sampleIn := raw }) hb' hpos
    rw [sampleFeed_concat raws raw s hm', hmode, hnbands, List.length_append]
    exact ⟨hm', hb', hnext⟩

/-- Settles O53: the last tick finds the band where the ticks before it lead, by `sampleFeed_atPosition`. -/
theorem sampleBlockTicks : Obligations.SampleBlockTicks := by
  intro s b raws hm hvalid hb hzero hne
  obtain ⟨before, raw, rfl⟩ := (List.eq_nil_or_concat raws).resolve_left hne
  obtain ⟨hm', hb', hpos⟩ := sampleFeed_atPosition hm hb (atPosition_zero hvalid hb hzero) before
  obtain ⟨-, hrdy⟩ := Band.AtPosition.onSample (s := { sampleFeed before s with sampleIn := raw }) hb' hpos
  rw [List.concat_eq_append, List.length_append, List.length_singleton, ← hpos.bankReady_iff, sampleFeed_concat _ _ _ hm', hrdy]
  exact Iff.rfl

/-! ### The result and the frame of `BANK.UPD` (R165) -/

/-- R165: the command word of band `b`. -/
theorem encode_bankUpd (b : Nat) : encode (.bankUpd b) = BitVec.ofNat 32 (0x50000000 + b * 0x10000) := by
  have hfields : 0x50 * 2 ^ 24 + b * 2 ^ 16 + 0 * 2 ^ 8 = 0x50000000 + b * 0x10000 := by omega
  rw [encode, Instr.op, Instr.u, Instr.j, hfields]

/-- R165: of all bins those of band `b` below `SIZE` take the update. -/
theorem bin_writeBand_bankUpdate {p : Build} (b b' j : Nat) (x : Int) (s : StateOf p) :
    bin (writeBand b ((band s b).bankUpdate x) s) b' j =
      if b' = b ∧ j < (band s b).size.toNat then (bin s b j).gzUpdate (band s b).blockLen (band s b).magScaler x
      else bin s b' j := by
  rw [bin_writeBand, Band.get_bankUpdate]
  by_cases hb : b' = b
  · simp [hb, bin_eq]
  · simp [hb]

/-- R165: the registers of band `b` that a bank update may change. -/
def BankUpdateReg (b : Nat) (bd : Band build) (reg : Reg) : Prop :=
  reg = .bankRdy b ∨ ∃ j < bd.size.toNat, BinUpdateReg b j reg

/-- R165: the other bands are left, and in the bins in use `COEF` and `PREVMAG` are carried over. -/
theorem bankUpdate_frameExcept (b : Nat) (x : Int) (s : State) :
    FrameExcept (BankUpdateReg b (band s b)) s (writeBand b ((band s b).bankUpdate x) s) := by
  refine ⟨fun reg hne => ?_, rfl, rfl, rfl⟩
  cases reg
  case q0 b' j | q1 b' j | q2 b' j | blkPos b' j | mag b' j =>
    have hother : ¬ (b' = b ∧ j < (band s b).size.toNat) := by
      rintro ⟨rfl, hj⟩
      exact hne (.inr ⟨j, hj, by simp [BinUpdateReg]⟩)
    simp only [readReg, bin_writeBand_bankUpdate, if_neg hother]
  case coef b' j | prevMag b' j =>
    simp only [readReg, bin_writeBand_bankUpdate]
    split
    next hsame =>
      obtain ⟨rfl, -⟩ := hsame
      simp only [Bin.gzUpdate_coef, Bin.gzUpdate_prevMag]
    next => rfl
  case bankRdy b' =>
    have hb : b' ≠ b := fun hb => hne (.inl (congrArg Reg.bankRdy hb))
    simp only [readReg, band_writeBand, if_neg hb]
  case blockLen | size | magScaler | sizeScaler | wrIdx | fluxHist | outMag | outOnset | outReady | outOverrun | tkMag |
      tkOnset | tkReady =>
    simp only [readReg, band_writeBand]
    split
    next hb => subst hb; rfl
    next => rfl
  all_goals rfl

/-- Settles O41: below `SIZE` both commands leave the same update of the bin, and at bin 0 the same flag. -/
theorem bankUpdResult : Obligations.BankUpdResult := by
  refine ⟨fun b hb => ?_, fun b => ⟨refusedByMode _, refusedByIndex _⟩, fun s b hm hb => ?_⟩
  · rw [← encode_bankUpd]
    exact decode_encode_of_wellFormed (i := .bankUpd b) (decide_eq_true hb)
  · refine ⟨_, exec_of_inRange (admitted_of_running (by simp) hm) hb, fun j hj => ?_, ?_, ?_⟩
    · obtain ⟨-, hbin⟩ := commandEffect_gzUpd s b j
      refine ⟨_, exec_of_inRange (admitted_of_running (by simp) hm) ⟨hb, hj⟩, ?_, ?_⟩
      · rw [hbin]
        exact (bin_writeBand_bankUpdate b b j (opA s) s).trans (if_pos ⟨rfl, hj⟩)
      · rintro rfl
        rfl
    · rw [band_commandEffect_bankUpd]
      rfl
    · refine ((bankUpdate_frameExcept b (opA s) s).trans (writeT_frameExcept _ _)).mono fun reg hreg => ?_
      obtain (hrdy | hbins) | ht := hreg
      exacts [.inr (.inl hrdy), .inr (.inr hbins), .inl ht]

end Sys2Proof.Machine
end

/-! SUPPORT and proofs: the growth of the gain bus and the staircases of the gain code (spec/45_auto_gain.md R191, R193, R196). -/

section
open Sys2Proof Sys2Proof.Config

namespace Sys2Proof.Machine

/-! ### One operation on the gain bus (R36, R193) -/

section
variable {p : Build} {s t : StateOf p}

/-- R193: no control word is sent, and in `RUNNING` the gain code stays. -/
def KeepsGain (s t : StateOf p) : Prop :=
  t.gainBus = s.gainBus ∧ t.gbusLast = s.gbusLast ∧ (s.mode = .running → t.agcStep = s.agcStep)

/-- R191, R193: with the hold-off at 0 the gain code moves by one, and its control word is sent. -/
def MovesGain (s t : StateOf p) : Prop :=
  ∃ w : BusWord, t.gainBus = s.gainBus ++ [w] ∧ t.gbusLast = w ∧ w.toNat = 0x4000 + t.agcStep.toNat ∧
    s.agcHoldcnt = 0 ∧ (t.agcStep.toNat = s.agcStep.toNat + 1 ∨ t.agcStep.toNat + 1 = s.agcStep.toNat)

theorem keepsGain_raiseErr (c : Cause) (s : StateOf p) : KeepsGain s (raiseErr c s) := by
  rw [raiseErr_eq]
  exact ⟨rfl, rfl, fun _ => rfl⟩

theorem keepsGain_storeReg (reg : Reg) (v : WordOf p) (s : StateOf p) : KeepsGain s (storeReg reg v s) := by
  obtain ⟨_, _, _, _, _, _, _, _, _, _, _, _, hstore⟩ := storeReg_frame reg v s
  rw [hstore]
  exact ⟨rfl, rfl, fun _ => rfl⟩

/-- R191: a tick evaluates only with the hold-off at 0, and an evaluation moves the code by at most one. -/
theorem keepsGain_or_movesGain_agcTick (s : StateOf p) : KeepsGain s (agcTick s) ∨ MovesGain s (agcTick s) := by
  obtain ⟨-, htick⟩ | ⟨-, -, htick⟩ | ⟨k, hzero, hk, htick⟩ := agcTick_cases s
  · exact .inl (htick ▸ ⟨rfl, rfl, fun _ => rfl⟩)
  · exact .inl (htick ▸ ⟨rfl, rfl, fun _ => rfl⟩)
  · obtain ⟨hup, hdown⟩ := toNat_agcNewStep hk
    refine .inr (htick ▸ ⟨gainWord k, rfl, rfl, toNat_gainWord k, BitVec.eq_of_toNat_eq hzero, ?_⟩)
    exact (em (LowTest s)).imp hup hdown

/-- R202: `INIT` sends nothing, and it is admitted in `UNCONFIGURED` only. -/
theorem keepsGain_initPipeline (hm : s.mode = .unconfigured) : KeepsGain s (initPipeline s) := by
  have hstep (t : StateOf p) : s.mode = .running → t.agcStep = s.agcStep := fun hr => by simp [hm] at hr
  obtain ⟨-, hinit⟩ | ⟨c, -, hinit⟩ := initPipeline_cases s
  · exact hinit ▸ ⟨rfl, rfl, hstep _⟩
  · rw [hinit, raiseErr_eq]
    exact ⟨rfl, rfl, hstep _⟩

/-- R191, R203: of the commands only `AGC.TICK` and the tick within `SAMPLE` can move the gain code. -/
theorem keepsGain_or_movesGain_commandEffect {i : Instr} (ha : Admitted i s.mode) :
    KeepsGain s (commandEffect i s) ∨ MovesGain s (commandEffect i s) := by
  cases i
  case init => exact .inl (keepsGain_initPipeline ((admitted_init_iff _).1 ha))
  case agcTick => exact keepsGain_or_movesGain_agcTick s
  case sample =>
    rw [commandEffect, onSample_eq_agcTick]
    exact keepsGain_or_movesGain_agcTick { s with envs := (onSample s).envs }
  all_goals exact .inl ⟨rfl, rfl, fun _ => rfl⟩

end

/-- Settles O50: every outcome of an operation but reset keeps the gain or moves it by one code. -/
theorem gainBusGrowsByOneStep : Obligations.GainBusGrowsByOneStep := by
  intro s t op rest h hstep hop
  cases performs_of_step h hstep with
  | read => exact .inl ⟨rfl, rfl, fun _ => rfl⟩
  | readError => exact .inl (keepsGain_raiseErr _ _)
  | writeError => exact .inl (keepsGain_raiseErr _ _)
  | store => exact .inl (keepsGain_storeReg _ _ _)
  | command _ ha => exact keepsGain_or_movesGain_commandEffect ha
  | reset => exact absurd rfl hop

/-! ### A staircase: the codes an unchanging envelope leads through (R196) -/

/-- R191, R196: `RUNNING` at place `i` of a staircase: with the envelope and the thresholds of `s` evaluations lead through the codes
`f 0` to `f 7` and stay there; `hold`, `cnt` and `bus` are the hold-off, its counter and the words sent so far. -/
structure OnStair (f : Nat → BitVec 3) (hold cnt i : Nat) (bus : List BusWord) (s : State) : Prop where
  mode : s.mode = .running
  next : ∀ i ≤ 7, agcNewStep { s with agcStep := f i } = if i < 7 then some (f (i + 1)) else none
  hold : s.agcHold.toNat = hold
  cnt : s.agcHoldcnt.toNat = cnt
  code : s.agcStep = f i
  bus : s.gainBus = bus

/-- R191: how many of `n` ticks evaluate, with the hold-off `hold` and the counter at `cnt`. -/
def evaluations (hold cnt n : Nat) : Nat := (n + hold - cnt) / (hold + 1)

theorem evaluations_zero (hold cnt : Nat) : evaluations hold cnt 0 = 0 :=
  Nat.div_eq_of_lt (by omega)

/-- R191: a tick with the counter above 0 counts down. -/
theorem evaluations_of_pos {cnt : Nat} (hcnt : 0 < cnt) (hold n : Nat) :
    evaluations hold cnt (n + 1) = evaluations hold (cnt - 1) n := by
  have hsub : n + 1 + hold - cnt = n + hold - (cnt - 1) := by omega
  rw [evaluations, evaluations, hsub]

/-- R191: a tick with the counter at 0 evaluates and reloads it. -/
theorem evaluations_of_zero (hold n : Nat) : evaluations hold 0 (n + 1) = evaluations hold hold n + 1 := by
  have hsub : n + 1 + hold - 0 = n + hold - hold + (hold + 1) := by omega
  rw [evaluations, evaluations, hsub, Nat.add_div_right _ (Nat.succ_pos hold)]

/-- R193: the control words of the `m` codes after place `i`. -/
def stairWords (f : Nat → BitVec 3) (i m : Nat) : List BusWord := (List.range m).map fun k => gainWord (f (i + 1 + k))

theorem stairWords_succ (f : Nat → BitVec 3) (i m : Nat) :
    stairWords f i (m + 1) = gainWord (f (i + 1)) :: stairWords f (i + 1) m := by
  have hshift (k : Nat) : i + 1 + (k + 1) = i + 1 + 1 + k := by omega
  rw [stairWords, List.range_succ_eq_map, List.map_cons, List.map_map, Nat.add_zero, stairWords]
  exact congrArg _ (List.map_congr_left fun k _ => congrArg (fun k => gainWord (f k)) (hshift k))

section
variable {f : Nat → BitVec 3} {hold cnt i : Nat} {bus : List BusWord} {s : State}

/-- R95: in `RUNNING` the command is the tick. -/
theorem after_agcTick (hm : s.mode = .running) : after .agcTick s = agcTick s :=
  after_of_exec (exec_of_inRange (admitted_of_running (by decide) hm) trivial)

/-- R191: with the counter above 0 a tick stays at its place. -/
theorem OnStair.count (h : OnStair f hold cnt i bus s) (hcnt : 0 < cnt) : OnStair f hold (cnt - 1) i bus (agcTick s) := by
  have hpos : 0 < s.agcHoldcnt.toNat := h.cnt ▸ hcnt
  have hle : (1 : Word) ≤ s.agcHoldcnt := hpos
  have htick : agcTick s = { s with agcHoldcnt := s.agcHoldcnt - 1 } := if_pos hpos
  rw [htick]
  exact ⟨h.mode, h.next, h.hold, by rw [BitVec.toNat_sub_of_le hle, h.cnt]; rfl, h.code, h.bus⟩

/-- R191: an evaluation takes the staircase's step. -/
theorem OnStair.agcNewStep (h : OnStair f hold cnt i bus s) (hi : i ≤ 7) :
    agcNewStep s = if i < 7 then some (f (i + 1)) else none := by
  rw [← h.next i hi, ← h.code]

/-- R191, R193: below the last place an evaluation climbs by one, sends that code's word and reloads the counter. -/
theorem OnStair.climb (h : OnStair f hold 0 i bus s) (hi : i < 7) :
    OnStair f hold hold (i + 1) (bus ++ [gainWord (f (i + 1))]) (agcTick s) := by
  have hnext : Machine.agcNewStep s = some (f (i + 1)) := by rw [h.agcNewStep hi.le, if_pos hi]
  have htick : agcTick s = agcChange (f (i + 1)) { s with agcHoldcnt := s.agcHold } := by
    rw [agcTick, if_neg (by rw [h.cnt]; decide), hnext]
  rw [htick]
  exact ⟨h.mode, h.next, h.hold, h.hold, rfl, congrArg (· ++ _) h.bus⟩

/-- R191: at the last place an evaluation only reloads the counter. -/
theorem OnStair.stay (h : OnStair f hold 0 7 bus s) : OnStair f hold hold 7 bus (agcTick s) := by
  have hnext : Machine.agcNewStep s = none := by rw [h.agcNewStep le_rfl, if_neg (lt_irrefl 7)]
  have htick : agcTick s = { s with agcHoldcnt := s.agcHold } := by
    rw [agcTick, if_neg (by rw [h.cnt]; decide), hnext]
  rw [htick]
  exact ⟨h.mode, h.next, h.hold, h.hold, h.code, h.bus⟩

end

/-- R196: `n` ticks climb one place for each evaluation, up to the last, and send the words of the places climbed. -/
theorem agcTicks_onStair {f : Nat → BitVec 3} {hold : Nat} (n : Nat) :
    ∀ {cnt i : Nat} {bus : List BusWord} {s : State}, OnStair f hold cnt i bus s → i ≤ 7 → cnt ≤ hold →
      ∃ cnt', OnStair f hold cnt' (i + min (7 - i) (evaluations hold cnt n))
        (bus ++ stairWords f i (min (7 - i) (evaluations hold cnt n))) (agcTicks n s) := by
  induction n with
  | zero =>
    intro cnt i bus s h _ _
    rw [evaluations_zero, Nat.min_zero, stairWords, List.range_zero, List.map_nil, List.append_nil]
    exact ⟨cnt, h⟩
  | succ n ih =>
    intro cnt i bus s h hi hcnt
    rw [agcTicks, after_agcTick h.mode]
    obtain rfl | hpos := Nat.eq_zero_or_pos cnt
    · rw [evaluations_of_zero]
      obtain hlt | rfl := Nat.lt_or_eq_of_le hi
      · have hmin : min (7 - i) (evaluations hold hold n + 1) = min (7 - (i + 1)) (evaluations hold hold n) + 1 := by omega
        obtain ⟨cnt', hend⟩ := ih (h.climb hlt) hlt le_rfl
        rw [hmin, stairWords_succ, List.append_cons, ← Nat.add_assoc, Nat.add_right_comm]
        exact ⟨cnt', hend⟩
      · have hend := ih h.stay le_rfl le_rfl
        rw [Nat.sub_self, Nat.zero_min] at hend ⊢
        exact hend
    · rw [evaluations_of_pos hpos]
      exact ih (h.count hpos) hi (by omega)

/-! ### The two staircases (R196) -/

/-- R190, R196: the codes upwards, from 0. -/
def upCode (i : Nat) : BitVec 3 := BitVec.ofNat 3 i

/-- R190, R196: the codes downwards, from 7. -/
def downCode (i : Nat) : BitVec 3 := BitVec.ofNat 3 (7 - i)

theorem toNat_upCode {i : Nat} (hi : i ≤ 7) : (upCode i).toNat = i := Nat.mod_eq_of_lt (by omega)

theorem toNat_downCode (i : Nat) : (downCode i).toNat = 7 - i := Nat.mod_eq_of_lt (by omega)

/-- R191, R196: below `AGC_LOW` each evaluation but the last place's steps up. -/
theorem agcNewStep_upCode {s : State} (hle : s.agcLow.toInt ≤ s.agcHigh.toInt)
    (hlow : (env s 0).val.toInt < s.agcLow.toInt) {i : Nat} (hi : i ≤ 7) :
    agcNewStep { s with agcStep := upCode i } = if i < 7 then some (upCode (i + 1)) else none := by
  have hhigh : ¬ HighTest { s with agcStep := upCode i } := fun ⟨hval, _⟩ =>
    absurd (hlow.trans_le hle) (not_lt.2 (le_of_lt hval))
  split
  next hlt =>
    have htest : LowTest { s with agcStep := upCode i } := ⟨hlow, by rw [toNat_upCode hi]; omega⟩
    have hsucc : upCode i + 1 = upCode (i + 1) :=
      BitVec.eq_of_toNat_eq (by rw [toNat_gainCode_succ htest.2, toNat_upCode hi, toNat_upCode hlt])
    rw [agcNewStep_of_lowTest htest, hsucc]
  next hlt => exact agcNewStep_of_no_test (fun ⟨_, hne⟩ => hne (by rw [toNat_upCode hi]; omega)) hhigh

/-- R191, R196: above `AGC_HIGH` each evaluation but the last place's steps down. -/
theorem agcNewStep_downCode {s : State} (hle : s.agcLow.toInt ≤ s.agcHigh.toInt)
    (hhigh : s.agcHigh.toInt < (env s 0).val.toInt) {i : Nat} (hi : i ≤ 7) :
    agcNewStep { s with agcStep := downCode i } = if i < 7 then some (downCode (i + 1)) else none := by
  have hlow : ¬ LowTest { s with agcStep := downCode i } := fun ⟨hval, _⟩ =>
    absurd (hle.trans_lt hhigh) (not_lt.2 (le_of_lt hval))
  split
  next hlt =>
    have htest : HighTest { s with agcStep := downCode i } := ⟨hhigh, by rw [toNat_downCode]; omega⟩
    have hpred : downCode i - 1 = downCode (i + 1) := by
      have hstep : (downCode i - 1).toNat + 1 = (downCode i).toNat := toNat_gainCode_pred htest.2
      have hcode := toNat_downCode i
      exact BitVec.eq_of_toNat_eq (by rw [toNat_downCode]; omega)
    rw [agcNewStep_of_highTest hlow htest, hpred]
  next hlt => exact agcNewStep_of_no_test hlow fun ⟨_, hne⟩ => hne (by rw [toNat_downCode]; omega)

/-- R193: the control word of a code, as a number. -/
theorem gainWord_eq_ofNat (k : BitVec 3) : gainWord k = BitVec.ofNat 16 (0x4000 + k.toNat) := by
  have hk : k.toNat < 8 := k.isLt
  exact BitVec.eq_of_toNat_eq (by rw [toNat_gainWord, BitVec.toNat_ofNat, Nat.mod_eq_of_lt (by omega)])

/-- R196: the words sent upwards are 0x4001, 0x4002, …, and downwards 0x4006, 0x4005, …. -/
theorem stairWords_upCode {m : Nat} (hm : m ≤ 7) :
    stairWords upCode 0 m = (List.range m).map fun k => BitVec.ofNat 16 (0x4001 + k) := by
  refine List.map_congr_left fun k hk => ?_
  have hk := List.mem_range.1 hk
  rw [gainWord_eq_ofNat, toNat_upCode (by omega)]
  exact congrArg (BitVec.ofNat 16) (by omega)

theorem stairWords_downCode {m : Nat} (hm : m ≤ 7) :
    stairWords downCode 0 m = (List.range m).map fun k => BitVec.ofNat 16 (0x4006 - k) := by
  refine List.map_congr_left fun k hk => ?_
  have hk := List.mem_range.1 hk
  rw [gainWord_eq_ofNat, toNat_downCode]
  exact congrArg (BitVec.ofNat 16) (by omega)

/-- Settles O49: from place 0 of either staircase the ticks climb `m` places, by `agcTicks_onStair`. -/
theorem gainStaircase : Obligations.GainStaircase := by
  intro s n hm hle hcnt m
  have hm7 : m ≤ 7 := Nat.min_le_left _ _
  have hzero : s.agcHoldcnt.toNat = 0 := by rw [hcnt]; rfl
  refine ⟨fun hlow hstep => ?_, fun hhigh hstep => ?_⟩
  · have hstair : OnStair upCode s.agcHold.toNat 0 0 s.gainBus s :=
      ⟨hm, fun _ => agcNewStep_upCode hle hlow, rfl, hzero, hstep, rfl⟩
    obtain ⟨_, hend⟩ := agcTicks_onStair n hstair (Nat.zero_le 7) (Nat.zero_le _)
    rw [hend.code, hend.bus, Nat.zero_add, ← stairWords_upCode hm7]
    exact ⟨toNat_upCode hm7, rfl⟩
  · have hstair : OnStair downCode s.agcHold.toNat 0 0 s.gainBus s :=
      ⟨hm, fun _ => agcNewStep_downCode hle hhigh, rfl, hzero, hstep, rfl⟩
    obtain ⟨_, hend⟩ := agcTicks_onStair n hstair (Nat.zero_le 7) (Nat.zero_le _)
    rw [hend.code, hend.bus, Nat.zero_add, ← stairWords_downCode hm7]
    exact ⟨toNat_downCode m, rfl⟩

end Sys2Proof.Machine
end

/-! SUPPORT and proofs: the laws of the fixed-point functions, the bounds of the bias and of the envelope, the flux of a block, and the
number format of every build (spec/00_scope.md R7, spec/40_fixedpoint_alu.md R121, spec/41_dc_bias_tracker.md R142 and R143,
spec/42_envelope_follower.md R152, spec/44_spectral_flux.md R185). -/

section
open Sys2Proof Sys2Proof.Config

namespace Sys2Proof.Machine

/-! ### A factor between 0 and 1 (R121) -/

section
variable {c d : Int}

/-- R121: a factor between 0 and `ONE` shrinks a reading that is not negative toward 0. -/
theorem mul_ediv_bounds_of_nonneg (h0 : 0 ≤ c) (h1 : c ≤ 65536) (hd : 0 ≤ d) : 0 ≤ c * d / 65536 ∧ c * d / 65536 ≤ d := by
  have hprod : 0 ≤ c * d := mul_nonneg h0 hd
  have hle : c * d ≤ 65536 * d := mul_le_mul_of_nonneg_right h1 hd
  omega

/-- R121: a factor between 0 and `ONE` shrinks a reading that is not positive toward 0. -/
theorem mul_ediv_bounds_of_nonpos (h0 : 0 ≤ c) (h1 : c ≤ 65536) (hd : d ≤ 0) : d ≤ c * d / 65536 ∧ c * d / 65536 ≤ 0 := by
  have hprod : c * d ≤ 0 := mul_nonpos_of_nonneg_of_nonpos h0 hd
  have hle : 65536 * d ≤ c * d := mul_le_mul_of_nonpos_right h1 hd
  omega

/-- R121: the product lies between 0 and the reading, so it does not saturate. -/
theorem fxmul_of_unit (h0 : 0 ≤ c) (h1 : c ≤ 65536) (hd : InRange d) : fxmul build c d = c * d / 65536 := by
  obtain ⟨hmin, hmax⟩ := hd
  rw [fxmul_eq]
  refine sat_of_inRange ?_
  obtain hneg | hpos := le_total d 0
  · have := mul_ediv_bounds_of_nonpos h0 h1 hneg
    omega
  · have := mul_ediv_bounds_of_nonneg h0 h1 hpos
    omega

end

/-! ### The laws of the ALU file (R121) -/

/-- R121 (e): the sum of a reading and its magnitude. -/
theorem fxadd_fxabs {d : Int} (hd : InRange d) :
    (0 < d → fxadd build d (fxabs build d) = clampWord (2 * d)) ∧
      (d ≤ 0 → d ≠ -2147483648 → fxadd build d (fxabs build d) = 0) ∧
      (d = -2147483648 → fxadd build d (fxabs build d) = -1) := by
  obtain ⟨hmin, hmax⟩ := hd
  rw [fxadd, fxabs_eq_min ⟨hmin, hmax⟩, sat_eq_clampWord]
  unfold clampWord
  refine ⟨fun hpos => ?_, fun hneg hne => ?_, fun heq => ?_⟩
  · rw [abs_of_pos hpos]
    omega
  · rw [abs_of_nonpos hneg]
    omega
  · rw [heq]
    decide

/-- R121 (f): a saturated difference is positive exactly when the exact one is. -/
theorem fxsub_pos_iff (a b : Int) : 0 < fxsub build a b ↔ b < a := by
  rw [fxsub, sat_eq]
  omega

/-- R121 (g): a product of like signs is not negative. -/
theorem fxmul_nonneg_of_like_signs {a b : Int} (h : 0 ≤ a ∧ 0 ≤ b ∨ a ≤ 0 ∧ b ≤ 0) : 0 ≤ fxmul build a b := by
  rw [fxmul_eq]
  exact sat_nonneg (Int.ediv_nonneg (mul_nonneg_iff.2 h) (by decide))

/-- Settles O35: each law is a lemma on readings in range. -/
theorem fixedPointLaws : Obligations.FixedPointLaws := by
  intro a b c d
  have hd := toInt_inRange d
  obtain ⟨hpos, hneg, hmin⟩ := fxadd_fxabs hd
  refine ⟨fxabs_nonneg _, fxsqrt_nonneg _, fun h0 h1 hd0 => ?_, fun h0 h1 hd0 => ?_, hpos, hneg, hmin, fxsub_pos_iff _ _,
    fxmul_nonneg_of_like_signs⟩
  · rw [fxmul_of_unit h0 h1 hd]
    exact mul_ediv_bounds_of_nonneg h0 h1 hd0
  · rw [fxmul_of_unit h0 h1 hd]
    exact mul_ediv_bounds_of_nonpos h0 h1 hd0

/-! ### The bias (R142, R143) -/

/-- R142: with a coefficient between 0 and 1 and no saturating difference, the new bias is the exact one. -/
theorem dcbNewBias_eq {s : State} {x : Int} (h0 : 0 ≤ s.dcbA0.toInt) (h1 : s.dcbA0.toInt ≤ 65536) (hx : InRange x)
    (hdiff : InRange (x - s.dcbBias.toInt)) :
    dcbNewBias s x = s.dcbBias.toInt + s.dcbA0.toInt * (x - s.dcbBias.toInt) / 65536 := by
  have hsub : fxsub build x s.dcbBias.toInt = x - s.dcbBias.toInt := sat_of_inRange hdiff
  obtain ⟨hmin, hmax⟩ := toInt_inRange s.dcbBias
  obtain ⟨hxmin, hxmax⟩ := hx
  rw [dcbNewBias, hsub, fxmul_of_unit h0 h1 hdiff, fxadd]
  refine sat_of_inRange ?_
  obtain hneg | hpos := le_total (x - s.dcbBias.toInt) 0
  · have := mul_ediv_bounds_of_nonpos h0 h1 hneg
    omega
  · have := mul_ediv_bounds_of_nonneg h0 h1 hpos
    omega

/-- Settles O37: by `dcbNewBias_eq` the bias moves by the floor of a fraction of the difference, which is 0 below one LSB and at most
-1 for a negative difference. -/
theorem dcbTracking : Obligations.DcbTracking := by
  intro s hm h0 h1 hdmin hdmax
  have hbias : (dcbUpdate (opA s) s).dcbBias.toInt =
      s.dcbBias.toInt + s.dcbA0.toInt * (s.a.toInt - s.dcbBias.toInt) / 65536 :=
    (toInt_dcbUpdate_dcbBias _ s).trans (dcbNewBias_eq h0 h1 (toInt_inRange s.a) ⟨hdmin, hdmax⟩)
  refine ⟨_, exec_dcbUpd_of_running hm, ?_⟩
  generalize (dcbUpdate (opA s) s).dcbBias = bias at hbias
  have hbounds : min s.dcbBias.toInt s.a.toInt ≤ bias.toInt ∧ bias.toInt ≤ max s.dcbBias.toInt s.a.toInt := by
    obtain hneg | hpos := le_total (s.a.toInt - s.dcbBias.toInt) 0
    · have := mul_ediv_bounds_of_nonpos h0 h1 hneg
      omega
    · have := mul_ediv_bounds_of_nonneg h0 h1 hpos
      omega
  obtain ⟨hlow, hhigh⟩ := hbounds
  refine ⟨hlow, hhigh, fun hpos hsmall => BitVec.eq_of_toInt_eq ?_, fun hneg ha0 => ?_⟩
  · have hprod := mul_nonneg h0 hpos.le
    omega
  · have hprod : s.dcbA0.toInt * (s.a.toInt - s.dcbBias.toInt) < 0 := mul_neg_of_pos_of_neg ha0 (by omega)
    show bias.toInt ≤ _
    omega

/-! ### The envelope (R152) -/

/-- R151, R152: with coefficients between 0 and 1 the new value is the exact one. -/
theorem envNewVal_eq {ev : Env build} (h0 : 0 ≤ ev.atk.toInt) (h1 : ev.atk.toInt ≤ 65536) (h0' : 0 ≤ ev.rel.toInt)
    (h1' : ev.rel.toInt ≤ 65536) (hv : 0 ≤ ev.val.toInt) (x : Word) :
    envNewVal ev x.toInt =
      if ev.val.toInt < fxabs build x.toInt then
        fxabs build x.toInt + ev.atk.toInt * (ev.val.toInt - fxabs build x.toInt) / 65536
      else fxabs build x.toInt + ev.rel.toInt * (ev.val.toInt - fxabs build x.toInt) / 65536 := by
  have hx := fxabs_nonneg (p := build) x.toInt
  obtain ⟨-, hxmax⟩ := fxabs_inRange (toInt_inRange x)
  obtain ⟨-, hvmax⟩ := toInt_inRange ev.val
  unfold envNewVal
  generalize fxabs build x.toInt = a at *
  have hdiff : InRange (ev.val.toInt - a) := ⟨by omega, by omega⟩
  have hsub : fxsub build ev.val.toInt a = ev.val.toInt - a := sat_of_inRange hdiff
  rw [hsub, fxmul_of_unit h0 h1 hdiff, fxmul_of_unit h0' h1' hdiff, fxadd, fxadd]
  split
  next hatk =>
    have := mul_ediv_bounds_of_nonpos h0 h1 (by omega : ev.val.toInt - a ≤ 0)
    exact sat_of_inRange (by omega)
  next hrel =>
    have := mul_ediv_bounds_of_nonneg h0' h1' (by omega : 0 ≤ ev.val.toInt - a)
    exact sat_of_inRange (by omega)

/-- R152: a floor of a part of a negative difference is the whole difference exactly when the rest of it is below one LSB. -/
theorem mul_ediv_eq_self_iff (c e : Int) : c * -e / 65536 = -e ↔ 0 ≤ e * (65536 - c) ∧ e * (65536 - c) < 65536 := by
  have hrest : e * (65536 - c) = 65536 * e + c * -e := by ring
  omega

/-- R152: with a coefficient up to one half the rest of a difference is below one LSB only for a difference of one. -/
theorem mul_lt_iff_eq_one {c e : Int} (hc : 0 < c) (hhalf : c ≤ 32768) (he : 0 < e) : e * (65536 - c) < 65536 ↔ e = 1 := by
  constructor
  · intro hlt
    by_contra hne
    have htwo : 2 * (65536 - c) ≤ e * (65536 - c) := mul_le_mul_of_nonneg_right (by omega) (by omega)
    omega
  · rintro rfl
    omega

/-- Settles O39: by `envNewVal_eq` the value moves from the magnitude by the floor of a part of the difference to the old value. -/
theorem envelopeBounds : Obligations.EnvelopeBounds := by
  intro ev x h0 h1 h0' h1' hv
  have hx := fxabs_nonneg (p := build) x.toInt
  rw [envNewVal_eq h0 h1 h0' h1' hv x]
  generalize fxabs build x.toInt = a at *
  by_cases hatk : ev.val.toInt < a
  · obtain ⟨e, he⟩ : ∃ e, a = ev.val.toInt + e := ⟨a - ev.val.toInt, by omega⟩
    have hdiff : ev.val.toInt - a = -e := by omega
    have hbounds := mul_ediv_bounds_of_nonpos h0 h1 (by omega : -e ≤ 0)
    have hself := mul_ediv_eq_self_iff ev.atk.toInt e
    have hrest : 0 ≤ e * (65536 - ev.atk.toInt) := mul_nonneg (by omega) (by omega)
    have hae : a - ev.val.toInt = e := by omega
    rw [if_pos hatk, hdiff, hae]
    refine ⟨by omega, by omega, by omega, fun _ hc => ?_, fun hrel => absurd hrel (by omega), fun _ => by omega,
      fun _ hc hhalf => ?_⟩
    · have hprod : ev.atk.toInt * -e < 0 := mul_neg_of_pos_of_neg hc (by omega)
      omega
    · have hone := mul_lt_iff_eq_one hc hhalf (by omega : 0 < e)
      omega
  · have hbounds := mul_ediv_bounds_of_nonneg h0' h1' (by omega : 0 ≤ ev.val.toInt - a)
    rw [if_neg hatk]
    refine ⟨by omega, by omega, by omega, fun h => absurd h hatk, fun hrel hc => ?_, fun h => absurd h hatk,
      fun h => absurd h hatk⟩
    have hprod : ev.rel.toInt * (ev.val.toInt - a) < 65536 * (ev.val.toInt - a) :=
      mul_lt_mul_of_pos_right hc (by omega)
    omega

/-! ### The flux of a block (R185) -/

section
variable {p : Build}

/-- R185: over readings that are not negative one bin's contribution is twice its increase, saturated. -/
theorem fluxTerm_eq {mag prev : Int} (hmag : 0 ≤ mag) (hmax : mag ≤ p.FX_MAX) (hprev : 0 ≤ prev) (hpmax : prev ≤ p.FX_MAX) :
    fluxTerm p mag prev = sat p (2 * max (mag - prev) 0) := by
  have hmin : p.FX_MIN = -p.FX_MAX - 1 := by rw [FX_MIN_eq_pow, FX_MAX_eq_pow]; omega
  have hsub : fxsub p mag prev = mag - prev := sat_of_fits ⟨by omega, by omega⟩
  rw [fluxTerm, hsub, fxadd, fxabs]
  split
  next hneg =>
    have hopp : sat p (-(mag - prev)) = -(mag - prev) := sat_of_fits ⟨by omega, by omega⟩
    exact congrArg _ (by omega)
  next hpos => exact congrArg _ (by omega)

/-- R31: every bin of the band has a magnitude and a previous magnitude that are not negative. -/
def Band.MagsNonneg (bd : Band p) : Prop := ∀ j, 0 ≤ (bd.bins.get j).mag.toInt ∧ 0 ≤ (bd.bins.get j).prevMag.toInt

theorem fluxTerm_bins_eq {bd : Band p} (h : bd.MagsNonneg) (j : Nat) :
    fluxTerm p (bd.bins.get j).mag.toInt (bd.bins.get j).prevMag.toInt =
      sat p (2 * max ((bd.bins.get j).mag.toInt - (bd.bins.get j).prevMag.toInt) 0) := by
  obtain ⟨hmag, hprev⟩ := h j
  exact fluxTerm_eq hmag (toInt_fits _).2 hprev (toInt_fits _).2

/-- R185: the flux of a block is a sum of contributions that are not negative. -/
theorem flux_eq_min {bd : Band p} (h : bd.MagsNonneg) :
    bd.flux = min p.FX_MAX (∑ j ∈ Finset.range bd.size.toNat,
      sat p (2 * max ((bd.bins.get j).mag.toInt - (bd.bins.get j).prevMag.toInt) 0)) := by
  rw [Band.flux]
  simp only [fluxTerm_bins_eq h]
  exact foldl_fxadd_range _ _ fun j _ => sat_nonneg (by omega)

theorem flux_nonneg {bd : Band p} (h : bd.MagsNonneg) : 0 ≤ bd.flux := by
  rw [flux_eq_min h]
  exact le_min FX_MAX_nonneg (Finset.sum_nonneg fun j _ => sat_nonneg (by omega))

/-- A sum cut off at a bound does not change when its terms, none of them negative, are cut off at it before. -/
theorem min_sum_min {m : Int} (hm : 0 ≤ m) (f : Nat → Int) (hf : ∀ j, 0 ≤ f j) (n : Nat) :
    min m (∑ j ∈ Finset.range n, min m (f j)) = min m (∑ j ∈ Finset.range n, f j) := by
  induction n with
  | zero => rfl
  | succ n ih =>
    have hn := hf n
    have hsum : 0 ≤ ∑ j ∈ Finset.range n, f j := Finset.sum_nonneg fun j _ => hf j
    have hsum' : 0 ≤ ∑ j ∈ Finset.range n, min m (f j) := Finset.sum_nonneg fun j _ => le_min hm (hf j)
    rw [Finset.sum_range_succ, Finset.sum_range_succ]
    omega

end

/-- Settles O45: by `flux_eq_min` the contributions are twice the increases, and saturating them too changes nothing. -/
theorem fluxIsTwiceTheIncreases : Obligations.FluxIsTwiceTheIncreases := by
  intro bd h
  have hsat (z : Int) : sat build (2 * max z 0) = min 2147483647 (2 * max z 0) := by rw [sat_eq]; omega
  rw [flux_eq_min h, FX_MAX_eq]
  simp only [hsat]
  exact min_sum_min (by decide) _ (fun j => by omega) _

/-! ### The number format of a build (R7) -/

section
variable {p : Build}

/-- R14: saturation leaves exactly the readings that fit. -/
theorem sat_eq_self_iff (z : Int) : sat p z = z ↔ Fits p z :=
  ⟨fun h => h ▸ sat_fits z, sat_of_fits⟩

theorem ONE_eq_pow : p.ONE = 2 ^ p.F := by
  simp [Build.ONE]

/-- R7: `NMAX` is the largest count that converts without saturating. -/
theorem fxfromint_eq_iff (hF : p.F ≤ p.W - 1) (n : Nat) : fxfromint p n = n * p.ONE ↔ n ≤ p.NMAX := by
  have hpow : 2 ^ (p.W - 1) = 2 ^ (p.W - 1 - p.F) * 2 ^ p.F := by rw [← pow_add, Nat.sub_add_cancel hF]
  have hle : n * 2 ^ p.F < 2 ^ (p.W - 1) ↔ n < 2 ^ (p.W - 1 - p.F) := by
    rw [hpow]
    exact Nat.mul_lt_mul_right (Nat.two_pow_pos _)
  have hpos : 0 < 2 ^ (p.W - 1 - p.F) := Nat.two_pow_pos _
  have hnmax : p.NMAX = 2 ^ (p.W - 1 - p.F) - 1 := rfl
  have hcast : (n : Int) * p.ONE = (n * 2 ^ p.F : Nat) := by rw [ONE_eq_pow]; push_cast; rfl
  have hmax : p.FX_MAX = (2 ^ (p.W - 1) : Nat) - 1 := by rw [FX_MAX_eq_pow]; push_cast; rfl
  have hmin := FX_MIN_neg (p := p)
  rw [fxfromint, sat_eq_self_iff, hcast, Fits, hmax]
  omega

/-- R7: the root of a reading fits a word. -/
theorem fxsqrt_le_FX_MAX (hF : p.F ≤ p.W - 1) {z : Int} (hz : z ≤ p.FX_MAX) : fxsqrt p z ≤ p.FX_MAX := by
  by_cases hpos : 0 < z
  · obtain ⟨hroot, -⟩ := fxsqrt_spec (p := p) hpos
    have hone : p.ONE ≤ 2 ^ (p.W - 1) := by
      rw [ONE_eq_pow]
      exact pow_le_pow_right₀ (by decide) hF
    have hone0 : 0 < p.ONE := by rw [ONE_eq_pow]; positivity
    have hpow : (0 : Int) < 2 ^ (p.W - 1) := by positivity
    rw [FX_MAX_eq_pow] at hz ⊢
    by_contra hlarge
    have hsquare : (2 : Int) ^ (p.W - 1) * 2 ^ (p.W - 1) ≤ fxsqrt p z * fxsqrt p z :=
      mul_le_mul (by omega) (by omega) hpow.le (by omega)
    have hlt : z * p.ONE < 2 ^ (p.W - 1) * 2 ^ (p.W - 1) := mul_lt_mul (by omega) hone hone0 hpow.le
    omega
  · rw [fxsqrt_of_nonpos (by omega)]
    exact FX_MAX_nonneg

end

/-- Settles O59: the bounds of `-2.0` and `2.0` are `F + 1 < W - 1`, and the rest are the lemmas on the format. -/
theorem buildFormat : Obligations.BuildFormat := by
  refine ⟨by decide, fun p hp => ?_⟩
  obtain ⟨hW, -, hF⟩ := hp
  have htwo : 2 * p.ONE < 2 ^ (p.W - 1) := by
    rw [ONE_eq_pow, ← pow_succ']
    exact pow_lt_pow_right₀ (by decide) (by omega)
  refine ⟨FX_MAX_eq_pow, FX_MIN_eq_pow, ONE_eq_pow, fun z hmin hmax => toInt_word_of_fits (by omega) ⟨hmin, hmax⟩, toInt_fits,
    fxfromint_eq_iff (by omega), ?_, ?_, fun z hz => ⟨fxsqrt_nonneg z, fxsqrt_le_FX_MAX (by omega) hz⟩⟩
  · rw [FX_MIN_eq_pow]
    omega
  · rw [FX_MAX_eq_pow]
    omega

/-! ### The onset test at a strict maximum (R185 (d)) -/

/-- Settles O47: a slot other than the strict maximum is below it, so only the maximum passes the test of `onset_iff`. -/
theorem onsetAtStrictMaximum : Obligations.OnsetAtStrictMaximum := by
  intro s b q hm hb hq hmax
  refine ⟨_, exec_of_inRange (i := .fluxOnset b) (admitted_of_running (by simp) hm) hb, ?_⟩
  have hlag : (band s b).lag = ((band s b).wrIdx.toNat + 3) % 5 := rfl
  have hlag5 : (band s b).lag < 5 := Nat.mod_lt _ (by decide)
  rw [← hlag, commandEffect, writeT_t, onset_iff]
  constructor
  · intro hall
    by_contra hne
    exact absurd (hall q hq) (not_le.2 (hmax _ hlag5 hne))
  · rintro rfl k hk
    by_cases hkq : k = (band s b).lag
    · rw [hkq]
    · exact (hmax k hk hkq).le

end Sys2Proof.Machine
end

/-! SUPPORT and proofs: the invariants that every step keeps, in any build: the configuration, the gain and the lifecycle
(spec/10_state.md section 5, spec/46_pipeline.md R200 to R202, spec/60_exceptions.md R230 to R232). -/

section
open Sys2Proof Sys2Proof.Config

namespace Sys2Proof.Machine

section
variable {p : Build}

/-! ### A property that every step keeps, from what one operation can do -/

/-- From a state with `Pre` every outcome of an operation has `Post`: one clause for each case of `Performs`, and that neither
speaks of the host's side. -/
structure StepKeeps (Pre Post : StateOf p → Prop) : Prop where
  pending : ∀ s ops, Pre s → Pre { s with pending := ops }
  answers : ∀ s l, Post s → Post { s with answers := l }
  idle : ∀ s, Pre s → Post s
  error : ∀ s c, c ∈ operationCauses → Pre s → Post (raiseErr c s)
  store : ∀ s reg v, reg.isMapped p = true → Stores .p reg s.mode → Pre s → Post (storeReg reg v s)
  command : ∀ s i, Admitted i s.mode → IndicesInRange i s → Pre s → Post (commandEffect i s)
  reset : ∀ s : StateOf p, Post (resetEvent s)

theorem StepKeeps.performs {Pre Post : StateOf p → Prop} (h : StepKeeps Pre Post) {op : BusOp p} {s t : StateOf p}
    (hs : Pre s) (hperf : Performs s op t) : Post t := by
  cases hperf with
  | read => exact h.answers _ _ (h.idle s hs)
  | readError => exact h.answers _ _ (h.error s _ (by decide) hs)
  | writeError _ _ _ hc => exact h.error s _ hc hs
  | store _ _ hmapped hstores => exact h.store s _ _ hmapped hstores hs
  | command _ ha hidx => exact h.command s _ ha hidx hs
  | reset => exact h.reset s

theorem StepKeeps.stepAt {Pre Post : StateOf p → Prop} (h : StepKeeps Pre Post) {s t : StateOf p} (hs : Pre s)
    (hstep : stepAt s = .next t) : Post t := by
  obtain ⟨-, rfl⟩ | ⟨op, rest, -, hperf⟩ := stepAt_cases hstep
  · exact h.idle _ hs
  · exact h.performs (h.pending s rest hs) hperf

/-! ### The shape of an effect by its mode (R95) -/

/-- R110: an `FX` command writes `R` alone. -/
theorem commandEffect_of_isFx {i : Instr} (h : isFx i) (s : StateOf p) : ∃ z, commandEffect i s = writeR z s := by
  simp only [isFx, List.mem_cons, List.not_mem_nil, or_false] at h
  obtain rfl | rfl | rfl | rfl | rfl | rfl | rfl | rfl := h <;> exact ⟨_, rfl⟩

/-- R63: an operand write changes an operand alone. -/
theorem storeReg_of_operand {reg : Reg} (h : reg.regClass = .operand) (v : WordOf p) (s : StateOf p) :
    ∃ a b raw, storeReg reg v s = { s with a := a, b := b, sampleIn := raw } := by
  rw [regClass_eq_operand_iff] at h
  simp only [List.mem_cons, List.not_mem_nil, or_false] at h
  obtain rfl | rfl | rfl := h <;> exact ⟨_, _, _, rfl⟩

/-- R65: a stored word is an operand's, or configuration in `UNCONFIGURED`. -/
theorem Stores.operand_or_unconfigured {port : Port} {reg : Reg} {m : Mode} (h : Stores port reg m) :
    reg.regClass = .operand ∨ m = .unconfigured := by
  obtain ⟨-, hop | ⟨-, hm⟩⟩ := h
  · exact .inl hop
  · exact .inr hm

/-! ### The configuration and the scalers (R201, R202) -/

/-- R30, R202: what `INIT` fixes of a band. -/
def Band.setup (bd : Band p) : List (WordOf p) := [bd.blockLen, bd.size, bd.magScaler, bd.sizeScaler]

theorem BandStep.setup {bd bd' : Band p} (h : BandStep bd bd') : bd'.setup = bd.setup := by
  cases h <;> rfl

/-- R39: a command other than `INIT` keeps the number of bands and what `INIT` fixed of each. -/
theorem setup_commandEffect {i : Instr} {s : StateOf p} (hi : i ≠ .init) (hidx : IndicesInRange i s) :
    (commandEffect i s).nbands = s.nbands ∧ ∀ b, (band (commandEffect i s) b).setup = (band s b).setup := by
  refine ⟨sameConfiguration_commandEffect i s .nbands rfl, fun b => ?_⟩
  exact commandEffect_keeps_band (P := fun bd => bd.setup = (band s b).setup)
    (fun _ _ hstep h => hstep.setup.trans h) (fun _ h => h) hi hidx rfl

/-- R201, R202: the configuration is valid and the scalers are its own. -/
def ConfigReady (s : StateOf p) : Prop :=
  ConfigValid s ∧ ∀ b < s.nbands.toNat,
    (band s b).magScaler = scalerOf p (band s b).blockLen ∧ (band s b).sizeScaler = scalerOf p (band s b).size

theorem ConfigReady.of_setup {s t : StateOf p} (h : ConfigReady s) (hn : t.nbands = s.nbands)
    (hsetup : ∀ b, (band t b).setup = (band s b).setup) : ConfigReady t := by
  simp only [Band.setup, List.cons.injEq, and_true] at hsetup
  simpa only [ConfigReady, ConfigValid, BandConfigOk, hn, hsetup] using h

/-- R201: the checks of `INIT` pass only on a valid configuration. -/
theorem configValid_of_initFailure {s : StateOf p} (h : initFailure s = none) : ConfigValid s := by
  unfold initFailure at h
  split at h
  next => cases h
  next hn =>
    rw [List.findSome?_eq_none_iff] at h
    refine ⟨by omega, by omega, fun b hb => ?_⟩
    have hband := h b (List.mem_range.2 hb)
    unfold Band.initFailure at hband
    split at hband
    next => cases hband
    next hlen =>
      split at hband
      next => cases hband
      next hsize => exact ⟨by omega, by omega, by omega, by omega⟩

/-- R200: `INIT` constructs the pipeline of a valid configuration, or fails with a configuration cause and keeps the rest. -/
theorem initPipeline_inversion (s : StateOf p) :
    (ConfigValid s ∧ initPipeline s = construct s) ∨
      ∃ c, c ∈ [Cause.cfgNbands, .cfgBlocklen, .cfgSize] ∧
        initPipeline s = { s with mode := .failed, cause := firstCause s.cause c } := by
  obtain ⟨hnone, hinit⟩ | ⟨c, hfail, -⟩ := initPipeline_cases s
  · exact .inl ⟨configValid_of_initFailure hnone, hinit⟩
  · exact .inr ⟨c, by simpa using initFailure_cause hfail, initPipeline_of_failure hfail⟩

/-- R202: the construction writes the scalers of the configuration it carries over. -/
theorem configReady_construct {s : StateOf p} (h : ConfigValid s) : ConfigReady (construct s) := by
  obtain ⟨hone, hmax, hbands⟩ := h
  have hband (b : Nat) (hb : b < s.nbands.toNat) : band (construct s) b = (band s b).construct := by
    rw [band_construct, if_pos hb]
  refine ⟨⟨hone, hmax, fun b hb => ?_⟩, fun b hb => ?_⟩
  · rw [BandConfigOk, hband b hb, Band.construct_blockLen, Band.construct_size]
    exact hbands b hb
  · rw [hband b hb, Band.construct_blockLen, Band.construct_size]
    exact ⟨rfl, rfl⟩

theorem configInv_commandEffect {i : Instr} {s : StateOf p} (ha : Admitted i s.mode) (hidx : IndicesInRange i s)
    (h : ConfigInv s) : ConfigInv (commandEffect i s) := by
  intro hrun
  by_cases hi : i = .init
  · subst hi
    obtain ⟨hvalid, hinit⟩ | ⟨c, -, hinit⟩ := initPipeline_inversion s
    · rw [commandEffect, hinit]
      exact configReady_construct hvalid
    · rw [commandEffect, hinit] at hrun
      cases hrun
  · obtain ⟨hn, hsetup⟩ := setup_commandEffect hi hidx
    rw [commandEffect_mode hi] at hrun
    exact (show ConfigReady s from h hrun).of_setup hn hsetup

/-- R202, R271: the configuration is written in `UNCONFIGURED` only. -/
theorem configInv_storeReg {reg : Reg} {s : StateOf p} (hstores : Stores .p reg s.mode) (v : WordOf p) (h : ConfigInv s) :
    ConfigInv (storeReg reg v s) := by
  obtain hop | hm := hstores.operand_or_unconfigured
  · obtain ⟨_, _, _, hstore⟩ := storeReg_of_operand hop v s
    rw [hstore]
    exact h
  · intro hrun
    rw [storeReg_mode, hm] at hrun
    cases hrun

theorem stepKeeps_configInv : StepKeeps (p := p) ConfigInv ConfigInv where
  pending _ _ h := h
  answers _ _ h := h
  idle _ h := h
  error s c _ h := by rw [raiseErr_eq]; exact h
  store _ _ v _ hstores h := configInv_storeReg hstores v h
  command _ _ ha hidx h := configInv_commandEffect ha hidx h
  reset _ := nofun

/-! ### The gain (R35, R36, R193) -/

theorem setWidth_gainWord (k : BitVec 3) : (gainWord k).setWidth 3 = k := by
  refine BitVec.eq_of_toNat_eq ?_
  rw [BitVec.toNat_setWidth, toNat_gainWord]
  omega

/-- R191: an evaluation that moves the code sets the gain, the last word and the sequence together. -/
theorem gainInv_agcChange {s : StateOf p} (hm : s.mode = .running) (h : GainInv s) (k : BitVec 3) :
    GainInv (agcChange k s) := by
  obtain ⟨-, -, hwords, -, -⟩ := h
  refine ⟨fun _ => rfl, fun hne => absurd hm hne, fun w hw => ?_, ?_, (setWidth_gainWord k).symm⟩
  · rw [agcChange_gainBus, List.mem_append, List.mem_singleton] at hw
    obtain hw | rfl := hw
    · exact hwords w hw
    · rw [toNat_gainWord]
      omega
  · rw [agcChange_gainBus, List.getLastD_concat, agcChange_gbusLast]

theorem gainInv_agcTick {s : StateOf p} (hm : s.mode = .running) (h : GainInv s) : GainInv (agcTick s) := by
  obtain ⟨-, htick⟩ | ⟨-, -, htick⟩ | ⟨k, -, -, htick⟩ := agcTick_cases s
  · rw [htick]
    exact h
  · rw [htick]
    exact h
  · rw [htick]
    exact gainInv_agcChange (s := { s with agcHoldcnt := s.agcHold }) hm h k

/-- R202: before `INIT` no word was sent, so the code it sets is the last word's. -/
theorem gainInv_initPipeline {s : StateOf p} (hm : s.mode = .unconfigured) (h : GainInv s) : GainInv (initPipeline s) := by
  obtain ⟨-, hempty, hwords, hlast, hcode⟩ := h
  have hbus : s.gainBus = [] := hempty (by rw [hm]; decide)
  obtain ⟨-, hinit⟩ | ⟨c, -, hinit⟩ := initPipeline_inversion s
  · rw [hinit]
    refine ⟨fun _ => rfl, fun hne => absurd rfl hne, hwords, hlast, ?_⟩
    rw [construct_gbusLast, hlast, hbus]
    rfl
  · rw [hinit]
    exact ⟨nofun, fun _ => hbus, hwords, hlast, hcode⟩

theorem gainInv_commandEffect {i : Instr} {s : StateOf p} (ha : Admitted i s.mode) (h : GainInv s) :
    GainInv (commandEffect i s) := by
  cases i
  case init => exact gainInv_initPipeline ((admitted_init_iff _).1 ha) h
  case agcTick =>
    have hm := (isFx_or_running_of_admitted (by decide) ha).resolve_left (by simp [isFx])
    exact gainInv_agcTick hm h
  case sample =>
    have hm := (isFx_or_running_of_admitted (by decide) ha).resolve_left (by simp [isFx])
    rw [commandEffect, onSample_eq_agcTick]
    exact gainInv_agcTick (s := { s with envs := (onSample s).envs }) hm h
  all_goals exact h

/-- R34, R35: the gain table is written in `UNCONFIGURED` only, where `AGC_SWGAIN` need not follow it. -/
theorem gainInv_storeReg {reg : Reg} {s : StateOf p} (hstores : Stores .p reg s.mode) (v : WordOf p) (h : GainInv s) :
    GainInv (storeReg reg v s) := by
  obtain hop | hm := hstores.operand_or_unconfigured
  · obtain ⟨_, _, _, hstore⟩ := storeReg_of_operand hop v s
    rw [hstore]
    exact h
  · obtain ⟨-, hempty, hwords, hlast, hcode⟩ := h
    obtain ⟨_, _, _, _, _, _, _, _, _, _, _, _, hstore⟩ := storeReg_frame reg v s
    rw [hstore]
    exact ⟨fun hrun => by simp [hm] at hrun, hempty, hwords, hlast, hcode⟩

theorem gainInv_resetState : GainInv (resetState p) := by
  refine ⟨nofun, fun _ => rfl, nofun, rfl, rfl⟩

theorem stepKeeps_gainInv : StepKeeps (p := p) GainInv GainInv where
  pending _ _ h := h
  answers _ _ h := h
  idle _ h := h
  error s c _ h := by rw [raiseErr_eq]; exact h
  store _ _ v _ hstores h := gainInv_storeReg hstores v h
  command _ _ ha _ h := gainInv_commandEffect ha h
  reset _ := gainInv_resetState

/-! ### What a stored word leaves of a band and of the envelopes (R65) -/

/-- R30: the bin's registers but its coefficient are those of `bn`. -/
def Bin.SameDynamic (bn bn' : Bin p) : Prop := bn' = { bn with coef := bn'.coef }

/-- R30: the band's registers but its configuration are those of `bd`. -/
structure Band.SameDynamic (bd bd' : Band p) : Prop where
  band : bd' = { bd with blockLen := bd'.blockLen, size := bd'.size, bins := bd'.bins }
  bins : ∀ j, (bd.bins.get j).SameDynamic (bd'.bins.get j)

theorem Band.SameDynamic.refl (bd : Band p) : bd.SameDynamic bd := ⟨rfl, fun _ => rfl⟩

/-- R65: a stored word changes at most a band's configuration. -/
theorem sameDynamic_storeReg (reg : Reg) (v : WordOf p) (s : StateOf p) (b : Nat) :
    (band s b).SameDynamic (band (storeReg reg v s) b) := by
  cases reg
  case blockLen b' | size b' =>
    simp only [storeReg, band_writeBand]
    split
    next hb => exact hb ▸ ⟨rfl, fun _ => rfl⟩
    next => exact .refl _
  case coef b' j =>
    simp only [storeReg, band_writeBand]
    split
    next hb =>
      subst hb
      refine ⟨rfl, fun j' => ?_⟩
      rw [Table.get_set]
      split
      next hj => exact hj ▸ rfl
      next => rfl
    next => exact .refl _
  all_goals exact .refl _

/-- R65: a stored word leaves the values of the envelopes. -/
theorem val_storeReg (reg : Reg) (v : WordOf p) (s : StateOf p) (e : Nat) : (env (storeReg reg v s) e).val = (env s e).val := by
  cases reg
  case envAtk e' | envRel e' =>
    simp only [storeReg, env_writeEnv]
    split
    next he => rw [he]
    next => rfl
  all_goals rfl

theorem Bin.SameDynamic.idle {bn bn' : Bin p} (h : bn.SameDynamic bn') (hidle : bn.Idle) : bn'.Idle := by
  rw [Bin.Idle] at hidle
  rw [Bin.SameDynamic, hidle] at h
  exact h

theorem Band.SameDynamic.idle {bd bd' : Band p} (h : bd.SameDynamic bd') (hidle : bd.Idle) : bd'.Idle := by
  obtain ⟨hband, hbins⟩ := hidle
  refine ⟨?_, fun j => (h.bins j).idle (hbins j)⟩
  have h' := h.band
  rw [hband] at h'
  exact h'

/-! ### The lifecycle (R200, R230, R231) -/

/-- R231: the causes that CORE records. -/
def CoreCause (c : Cause) : Prop := c ≠ .cfgSampleRate ∧ c ≠ .cfgFreqRange

/-- R200: the dynamic registers outside the bands and the envelopes. -/
def dynamicRegs (s : StateOf p) : Bool × List (WordOf p) × BitVec 3 × BusWord × List BusWord :=
  (s.t, [s.dcbBias, s.agcHoldcnt, s.agcSwgain], s.agcStep, s.gbusLast, s.gainBus)

/-- R200: the dynamic state holds its reset values. -/
def DynamicReset (s : StateOf p) : Prop :=
  dynamicRegs s = dynamicRegs (resetState p) ∧ (∀ e, (env s e).val = 0) ∧ ∀ b, (band s b).Idle

theorem lifecycleInv_iff (s : StateOf p) :
    LifecycleInv s ↔
      CoreCause s.cause ∧ (s.mode = .failed → s.cause ≠ .none) ∧ (s.mode ≠ .running → DynamicReset s) := by
  have hdynamic : dynamicRegs s = dynamicRegs (resetState p) ↔
      s.t = false ∧ s.dcbBias = 0 ∧ s.agcHoldcnt = 0 ∧ s.agcStep = 0 ∧ s.agcSwgain = (resetState p).agcSwgain ∧
        s.gbusLast = 0 ∧ s.gainBus = [] := by
    simp only [dynamicRegs, Prod.mk.injEq, List.cons.injEq, and_true]
    constructor
    · rintro ⟨ht, ⟨hbias, hcnt, hgain⟩, hstep, hlast, hbus⟩
      exact ⟨ht, hbias, hcnt, hstep, hgain, hlast, hbus⟩
    · rintro ⟨ht, hbias, hcnt, hstep, hgain, hlast, hbus⟩
      exact ⟨ht, ⟨hbias, hcnt, hgain⟩, hstep, hlast, hbus⟩
  simp only [LifecycleInv, CoreCause, DynamicReset, hdynamic, and_assoc]

/-- R65: a stored word changes no dynamic register. -/
theorem dynamicReset_storeReg {s : StateOf p} (h : DynamicReset s) (reg : Reg) (v : WordOf p) :
    DynamicReset (storeReg reg v s) := by
  obtain ⟨hregs, henvs, hbands⟩ := h
  refine ⟨?_, fun e => (val_storeReg reg v s e).trans (henvs e), fun b => (sameDynamic_storeReg reg v s b).idle (hbands b)⟩
  obtain ⟨_, _, _, _, _, _, _, _, _, _, _, _, hstore⟩ := storeReg_frame reg v s
  rw [hstore]
  exact hregs

theorem lifecycleInv_storeReg {s : StateOf p} (h : LifecycleInv s) (reg : Reg) (v : WordOf p) :
    LifecycleInv (storeReg reg v s) := by
  rw [lifecycleInv_iff] at h ⊢
  obtain ⟨hcause, hfailed, hdynamic⟩ := h
  rw [storeReg_cause, storeReg_mode]
  exact ⟨hcause, hfailed, fun hm => dynamicReset_storeReg (hdynamic hm) reg v⟩

theorem coreCause_firstCause {old new : Cause} (hold : CoreCause old) (hnew : CoreCause new) :
    CoreCause (firstCause old new) := by
  unfold firstCause
  split
  next => exact hnew
  next => exact hold

/-- R232: after an error some cause is recorded. -/
theorem firstCause_ne_none (old : Cause) {new : Cause} (h : new ≠ .none) : firstCause old new ≠ .none := by
  unfold firstCause
  split
  next => exact h
  next hold => exact hold

theorem coreCause_of_mem {c : Cause} (h : c ∈ operationCauses) : CoreCause c :=
  ⟨ne_of_mem_of_not_mem h (by decide), ne_of_mem_of_not_mem h (by decide)⟩

theorem lifecycleInv_raiseErr {s : StateOf p} {c : Cause} (hc : c ∈ operationCauses) (h : LifecycleInv s) :
    LifecycleInv (raiseErr c s) := by
  rw [lifecycleInv_iff] at h ⊢
  obtain ⟨hcause, -, hdynamic⟩ := h
  rw [raiseErr_eq_firstCause]
  exact ⟨coreCause_firstCause hcause (coreCause_of_mem hc),
    fun _ => firstCause_ne_none _ (ne_of_mem_of_not_mem hc (by decide)), hdynamic⟩

/-- R200: a failing `INIT` keeps the dynamic state and has a cause; a successful one leaves the modes that this invariant binds. -/
theorem lifecycleInv_initPipeline {s : StateOf p} (hm : s.mode = .unconfigured) (h : LifecycleInv s) :
    LifecycleInv (initPipeline s) := by
  rw [lifecycleInv_iff] at h ⊢
  obtain ⟨hcause, -, hdynamic⟩ := h
  obtain ⟨-, hinit⟩ | ⟨c, hc, hinit⟩ := initPipeline_inversion s
  · rw [hinit]
    exact ⟨hcause, nofun, fun hne => absurd rfl hne⟩
  · rw [hinit]
    have hcore : CoreCause c := ⟨ne_of_mem_of_not_mem hc (by decide), ne_of_mem_of_not_mem hc (by decide)⟩
    exact ⟨coreCause_firstCause hcause hcore, fun _ => firstCause_ne_none _ (ne_of_mem_of_not_mem hc (by decide)),
      fun _ => hdynamic (by rw [hm]; decide)⟩

/-- R95: outside `RUNNING` only the `FX` commands and `INIT` take effect. -/
theorem lifecycleInv_commandEffect {i : Instr} {s : StateOf p} (ha : Admitted i s.mode) (h : LifecycleInv s) :
    LifecycleInv (commandEffect i s) := by
  by_cases hi : i = .init
  · subst hi
    exact lifecycleInv_initPipeline ((admitted_init_iff _).1 ha) h
  · obtain hfx | hm := isFx_or_running_of_admitted hi ha
    · obtain ⟨z, hz⟩ := commandEffect_of_isFx hfx s
      rw [hz]
      exact h
    · rw [lifecycleInv_iff] at h ⊢
      obtain ⟨hcause, -, -⟩ := h
      rw [commandEffect_cause hi, commandEffect_mode hi, hm]
      exact ⟨hcause, nofun, fun hne => absurd rfl hne⟩

theorem idle_zero : (Band.zero : Band p).Idle := ⟨rfl, fun _ => rfl⟩

theorem lifecycleInv_resetState : LifecycleInv (resetState p) :=
  (lifecycleInv_iff _).2 ⟨⟨nofun, nofun⟩, nofun, fun _ => ⟨rfl, fun _ => rfl, fun _ => idle_zero⟩⟩

theorem stepKeeps_lifecycleInv : StepKeeps (p := p) LifecycleInv LifecycleInv where
  pending _ _ h := h
  answers _ _ h := h
  idle _ h := h
  error _ _ hc h := lifecycleInv_raiseErr hc h
  store _ reg v _ _ h := lifecycleInv_storeReg h reg v
  command _ _ ha _ h := lifecycleInv_commandEffect ha h
  reset _ := lifecycleInv_resetState

end

/-- Settles O19: `stepKeeps_configInv` at the default build. -/
theorem configInvKept : Obligations.ConfigInvKept := fun _ _ h hstep =>
  stepKeeps_configInv.stepAt h (stepAt_build ▸ hstep)

/-- Settles O20: `stepKeeps_gainInv` at the default build. -/
theorem gainInvKept : Obligations.GainInvKept := fun _ _ h hstep =>
  stepKeeps_gainInv.stepAt h (stepAt_build ▸ hstep)

/-- Settles O21: `stepKeeps_lifecycleInv` at the default build. -/
theorem lifecycleInvKept : Obligations.LifecycleInvKept := fun _ _ h hstep =>
  stepKeeps_lifecycleInv.stepAt h (stepAt_build ▸ hstep)

end Sys2Proof.Machine
end

/-! SUPPORT and proofs: the invariants that every step keeps, in any build: the unused registers and the bands; and that the state after
reset meets all five (spec/10_state.md R31, R33, R39, R40). -/

section
open Sys2Proof Sys2Proof.Config

namespace Sys2Proof.Machine

section
variable {p : Build}

/-! ### What a configuration in force says of one band (R201) -/

/-- R201: a running block has a band in use at most for each that is built, of blocks that are not empty and of bins that are built. -/
theorem ConfigInv.bounds {s : StateOf p} (h : ConfigInv s) (hm : s.mode = .running) :
    s.nbands.toNat ≤ p.MAXBANDS ∧ ∀ b < s.nbands.toNat, (band s b).size.toNat ≤ p.MAXBINS := by
  obtain ⟨⟨-, hmax, hbands⟩, -⟩ := h hm
  refine ⟨hmax, fun b hb => ?_⟩
  obtain ⟨-, -, -, hsize⟩ := hbands b hb
  exact hsize

/-! ### Registers beyond the capacities and the counts (R39) -/

/-- R39: the bins and the flux slots of the band beyond the capacities hold their reset values. -/
def Band.WithinCapacity (bd : Band p) : Prop :=
  (∀ j, p.MAXBINS ≤ j → bd.bins.get j = Bin.zero) ∧ ∀ k, p.WIN ≤ k → bd.fluxHist.get k = 0

/-- R39: the bins of the band from `SIZE` on are idle. -/
def Band.UnusedBinsIdle (bd : Band p) : Prop := ∀ j, bd.size.toNat ≤ j → (bd.bins.get j).Idle

theorem unusedInv_iff (s : StateOf p) :
    UnusedInv s ↔
      (∀ b, p.MAXBANDS ≤ b → band s b = Band.zero) ∧ (∀ b, (band s b).WithinCapacity) ∧
        (∀ e, p.NE ≤ e → env s e = Env.zero) ∧ (∀ k, 8 ≤ k → s.agcSwtab.get k = 0) ∧
        (s.mode = .running →
          (∀ b, s.nbands.toNat ≤ b → (band s b).Idle) ∧ ∀ b, (band s b).UnusedBinsIdle) := by
  constructor
  · rintro ⟨hbands, hbins, hflux, henvs, htab, hrun⟩
    exact ⟨hbands, fun b => ⟨hbins b, hflux b⟩, henvs, htab, hrun⟩
  · rintro ⟨hbands, hcap, henvs, htab, hrun⟩
    exact ⟨hbands, fun b => (hcap b).1, fun b => (hcap b).2, henvs, htab, hrun⟩

/-- R39: the band stays within the capacities, and within its own size. -/
structure Band.Contained (bd : Band p) : Prop where
  size : bd.size.toNat ≤ p.MAXBINS
  capacity : bd.WithinCapacity
  idle : bd.UnusedBinsIdle

theorem idle_bin_zero : (Bin.zero : Bin p).Idle := rfl

/-- R39: an update of bins below `SIZE` alone reaches neither the bins beyond the capacity nor the idle ones. -/
theorem Band.Contained.of_bins {bd bd' : Band p} (h : bd.Contained) (hsize : bd'.size = bd.size)
    (hbins : ∀ j, bd.size.toNat ≤ j → bd'.bins.get j = bd.bins.get j)
    (hflux : ∀ k, p.WIN ≤ k → bd'.fluxHist.get k = bd.fluxHist.get k) : bd'.Contained := by
  obtain ⟨hcapBins, hcapFlux⟩ := h.capacity
  refine ⟨hsize ▸ h.size, ⟨fun j hj => ?_, fun k hk => ?_⟩, fun j hj => ?_⟩
  · rw [hbins j (h.size.trans hj), hcapBins j hj]
  · rw [hflux k hk, hcapFlux k hk]
  · rw [hsize] at hj
    rw [hbins j hj]
    exact h.idle j hj

/-- R181: the write index of a window with a slot is one of its slots. -/
theorem nextWrIdx_lt (hwin : 1 ≤ p.WIN) (bd : Band p) : bd.nextWrIdx < p.WIN := Nat.mod_lt _ hwin

theorem BandStep.contained (hwin : 1 ≤ p.WIN) {bd bd' : Band p} (hstep : BandStep bd bd') (h : bd.Contained) :
    bd'.Contained := by
  cases hstep with
  | gz j x hj =>
    refine h.of_bins rfl (fun j' hj' => ?_) fun _ _ => rfl
    rw [Band.gzUpdate_bins, Table.get_set_other _ _ (by omega)]
  | bank x =>
    refine h.of_bins rfl (fun j hj => ?_) fun _ _ => rfl
    rw [Band.get_bankUpdate, if_neg (by omega)]
  | flux =>
    refine h.of_bins rfl (fun j hj => ?_) fun k hk => ?_
    · rw [Band.get_fluxBlock, if_neg (by omega)]
    · have hlt := nextWrIdx_lt hwin bd
      rw [Band.fluxBlock_fluxHist, Table.get_set_other _ _ (by omega)]
  | publish n => exact h.of_bins rfl (fun _ _ => rfl) fun _ _ => rfl

/-- R151, R203: of the commands but `INIT` none writes an envelope that is not built. -/
theorem env_commandEffect_unbuilt (hne : 1 ≤ p.NE) {i : Instr} {s : StateOf p} (hi : i ≠ .init) (hidx : IndicesInRange i s)
    {e : Nat} (he : p.NE ≤ e) : env (commandEffect i s) e = env s e := by
  cases i
  case init => exact absurd rfl hi
  case sample => rw [commandEffect, env_onSample, if_neg (by omega)]
  case envUpd e' =>
    have he' : e ≠ e' := fun heq => absurd hidx (not_lt.2 (heq ▸ he))
    exact (env_writeEnv _ _ _ _).trans (if_neg he')
  case agcTick =>
    obtain ⟨_, _, _, _, _, htick⟩ := agcTick_frame s
    rw [commandEffect, htick]
    rfl
  all_goals rfl

/-- R202: before `INIT` the bands out of use are idle, and the construction zeroes the bins of the others. -/
theorem unusedInv_construct {s : StateOf p} (hm : s.mode = .unconfigured) (hvalid : ConfigValid s) (hl : LifecycleInv s)
    (h : UnusedInv s) : UnusedInv (construct s) := by
  rw [unusedInv_iff] at h ⊢
  obtain ⟨hbands, hcap, henvs, htab, -⟩ := h
  obtain ⟨-, -, hdynamic⟩ := (lifecycleInv_iff s).1 hl
  obtain ⟨-, -, hidle⟩ := hdynamic (by rw [hm]; decide)
  obtain ⟨-, hmax, -⟩ := hvalid
  refine ⟨fun b hb => ?_, fun b => ⟨fun j hj => ?_, fun k hk => ?_⟩, fun e he => ?_, htab, fun _ => ⟨fun b hb => ?_, fun b j _ => ?_⟩⟩
  · rw [band_construct, if_neg (by omega), hbands b hb]
  · rw [← bin_eq, bin_construct, if_neg (by omega)]
    exact (hcap b).1 j hj
  · rw [fluxHist_construct, if_neg (by omega)]
    exact (hcap b).2 k hk
  · rw [env_construct, if_neg (by omega), henvs e he]
  · rw [construct_nbands] at hb
    rw [band_construct, if_neg (by omega)]
    exact hidle b
  · rw [← bin_eq, bin_construct]
    split
    next => rfl
    next => exact (hidle b).2 j

/-- R39: the steps of the bands in use are within their sizes, and the other bands take none. -/
theorem unusedInv_commandEffect (hcapacities : p.CapacitiesLegal) {i : Instr} {s : StateOf p} (ha : Admitted i s.mode)
    (hidx : IndicesInRange i s) (hc : ConfigInv s) (hl : LifecycleInv s) (h : UnusedInv s) :
    UnusedInv (commandEffect i s) := by
  obtain ⟨hne, -, -, hwin, -⟩ := hcapacities
  by_cases hi : i = .init
  · subst hi
    have hm := (admitted_init_iff _).1 ha
    obtain ⟨hvalid, hinit⟩ | ⟨c, -, hinit⟩ := initPipeline_inversion s
    · rw [commandEffect, hinit]
      exact unusedInv_construct hm hvalid hl h
    · rw [commandEffect, hinit]
      obtain ⟨hbands, hbins, hflux, henvs, htab, -⟩ := h
      exact ⟨hbands, hbins, hflux, henvs, htab, nofun⟩
  · obtain hfx | hm := isFx_or_running_of_admitted hi ha
    · obtain ⟨z, hz⟩ := commandEffect_of_isFx hfx s
      rw [hz]
      exact h
    · rw [unusedInv_iff] at h ⊢
      obtain ⟨hbands, hcap, henvs, htab, hrun⟩ := h
      obtain ⟨hidle, hbinsIdle⟩ := hrun hm
      obtain ⟨hmax, hsize⟩ := hc.bounds hm
      obtain ⟨hn, hsetup⟩ := setup_commandEffect hi hidx
      have hunused {b : Nat} (hb : s.nbands.toNat ≤ b) : band (commandEffect i s) b = band s b :=
        band_commandEffect_unused hi hidx hb
      have hused {b : Nat} (hb : b < s.nbands.toNat) : (band (commandEffect i s) b).Contained :=
        commandEffect_keeps_band (fun _ _ => BandStep.contained hwin)
          (fun _ hbd => hbd.of_bins rfl (fun _ _ => rfl) fun _ _ => rfl) hi hidx ⟨hsize b hb, hcap b, hbinsIdle b⟩
      refine ⟨fun b hb => (hunused (hmax.trans hb)).trans (hbands b hb), fun b => ?_,
        fun e he => (env_commandEffect_unbuilt hne hi hidx he).trans (henvs e he),
        fun k hk => (sameConfiguration_commandEffect i s (.agcSwtab k) rfl).trans (htab k hk),
        fun _ => ⟨fun b hb => ?_, fun b => ?_⟩⟩
      · obtain hb | hb := Nat.lt_or_ge b s.nbands.toNat
        · exact (hused hb).capacity
        · rw [hunused hb]
          exact hcap b
      · rw [hn] at hb
        rw [hunused hb]
        exact hidle b hb
      · obtain hb | hb := Nat.lt_or_ge b s.nbands.toNat
        · exact (hused hb).idle
        · rw [hunused hb]
          exact hbinsIdle b

/-! ### A stored word within the capacities (R62) -/

section
variable {reg : Reg} (hmapped : reg.isMapped p = true) (v : WordOf p) (s : StateOf p)
include hmapped

theorem band_storeReg_unbuilt {b : Nat} (hb : p.MAXBANDS ≤ b) : band (storeReg reg v s) b = band s b := by
  cases reg
  case blockLen b' | size b' | coef b' j =>
    simp only [Reg.isMapped, Bool.and_eq_true, decide_eq_true_eq] at hmapped
    exact (band_writeBand _ _ _ _).trans (if_neg (by omega))
  all_goals rfl

theorem withinCapacity_storeReg {b : Nat} (h : (band s b).WithinCapacity) : (band (storeReg reg v s) b).WithinCapacity := by
  cases reg
  case blockLen b' | size b' =>
    rw [storeReg, band_writeBand]
    split
    next hb => exact hb ▸ h
    next => exact h
  case coef b' j =>
    simp only [Reg.isMapped, Bool.and_eq_true, decide_eq_true_eq] at hmapped
    obtain ⟨-, hj⟩ := hmapped
    rw [storeReg, band_writeBand]
    split
    next hb =>
      subst hb
      obtain ⟨hbins, hflux⟩ := h
      exact ⟨fun j' hj' => (Table.get_set_other _ _ (by omega)).trans (hbins j' hj'), hflux⟩
    next => exact h
  all_goals exact h

theorem env_storeReg_unbuilt {e : Nat} (he : p.NE ≤ e) : env (storeReg reg v s) e = env s e := by
  cases reg
  case envAtk e' | envRel e' =>
    simp only [Reg.isMapped, decide_eq_true_eq] at hmapped
    exact (env_writeEnv _ _ _ _).trans (if_neg (by omega))
  all_goals rfl

theorem agcSwtab_storeReg_unbuilt {k : Nat} (hk : 8 ≤ k) : (storeReg reg v s).agcSwtab.get k = s.agcSwtab.get k := by
  cases reg
  case agcSwtab k' =>
    simp only [Reg.isMapped, decide_eq_true_eq] at hmapped
    exact Table.get_set_other _ _ (by omega)
  all_goals rfl

end

/-- R62: a write to a register of the map reaches no register beyond the capacities. -/
theorem unusedInv_storeReg {reg : Reg} {s : StateOf p} (hmapped : reg.isMapped p = true) (hstores : Stores .p reg s.mode)
    (v : WordOf p) (h : UnusedInv s) : UnusedInv (storeReg reg v s) := by
  obtain hop | hm := hstores.operand_or_unconfigured
  · obtain ⟨_, _, _, hstore⟩ := storeReg_of_operand hop v s
    rw [hstore]
    exact h
  · rw [unusedInv_iff] at h ⊢
    obtain ⟨hbands, hcap, henvs, htab, -⟩ := h
    have hrun : (storeReg reg v s).mode ≠ .running := by rw [storeReg_mode, hm]; decide
    exact ⟨fun b hb => (band_storeReg_unbuilt hmapped v s hb).trans (hbands b hb),
      fun b => withinCapacity_storeReg hmapped v s (hcap b),
      fun e he => (env_storeReg_unbuilt hmapped v s he).trans (henvs e he),
      fun k hk => (agcSwtab_storeReg_unbuilt hmapped v s hk).trans (htab k hk), fun hr => absurd hr hrun⟩

/-- R40, R194: after reset only the gain table holds values other than 0, and it has eight entries. -/
theorem unusedInv_resetState : UnusedInv (resetState p) := by
  refine ⟨fun _ _ => rfl, fun _ _ _ => rfl, fun _ _ _ => rfl, fun _ _ => rfl, fun k hk => ?_, nofun⟩
  exact (Table.get_ofList _ k).trans (List.getD_eq_default _ _ hk)

theorem stepKeeps_unusedInv (hcapacities : p.CapacitiesLegal) :
    StepKeeps (p := p) (fun s => ConfigInv s ∧ LifecycleInv s ∧ UnusedInv s) UnusedInv where
  pending _ _ h := h
  answers _ _ h := h
  idle _ h := h.2.2
  error s c _ h := by
    obtain ⟨-, -, hu⟩ := h
    rw [raiseErr_eq]
    exact hu
  store _ _ v hmapped hstores h := by
    obtain ⟨-, -, hu⟩ := h
    exact unusedInv_storeReg hmapped hstores v hu
  command _ _ ha hidx h := by
    obtain ⟨hc, hl, hu⟩ := h
    exact unusedInv_commandEffect hcapacities ha hidx hc hl hu
  reset _ := unusedInv_resetState

/-! ### The registers of a band (R31, R33) -/

/-- R31: the bin's recursion is in step with itself, and its magnitudes are not negative. -/
def Bin.Sound (bn : Bin p) : Prop := bn.q0 = bn.q1 ∧ 0 ≤ bn.mag.toInt ∧ 0 ≤ bn.prevMag.toInt

/-- R31, R33: the bins are sound, the write index is a slot of the window, and the fluxes are not negative. -/
def Band.Sound (bd : Band p) : Prop :=
  (∀ j, (bd.bins.get j).Sound) ∧ bd.wrIdx.toNat < p.WIN ∧ ∀ k, 0 ≤ (bd.fluxHist.get k).toInt

/-- R31: every bin in use stands inside a block. -/
def Band.InsideBlock (bd : Band p) : Prop := ∀ j < bd.size.toNat, (bd.bins.get j).blkPos.toNat < bd.blockLen.toNat

theorem bandInv_iff (s : StateOf p) :
    BandInv s ↔ (∀ b, (band s b).Sound) ∧ (s.mode = .running → ∀ b < s.nbands.toNat, (band s b).InsideBlock) := by
  constructor
  · rintro ⟨hbins, hwr, hflux, hrun⟩
    exact ⟨fun b => ⟨hbins b, hwr b, hflux b⟩, hrun⟩
  · rintro ⟨hsound, hrun⟩
    exact ⟨fun b => (hsound b).1, fun b => (hsound b).2.1, fun b => (hsound b).2.2, hrun⟩

theorem toInt_zero : (0 : WordOf p).toInt = 0 := BitVec.toInt_zero

theorem toNat_zero_lt {n : Nat} (hn : 0 < n) : (0 : WordOf p).toNat < n :=
  (BitVec.toNat_zero (w := p.W)).trans_lt hn

/-- R112: the reciprocal of a reading that is not negative is not negative. -/
theorem fxrcp_nonneg {a : Int} (ha : 0 ≤ a) : 0 ≤ fxrcp p a := by
  unfold fxrcp
  split
  next => exact FX_MAX_nonneg
  next hne =>
    rw [fdiv_pos (by omega)]
    exact sat_nonneg (Int.ediv_nonneg (Int.natCast_nonneg _) ha)

/-- R202: the scaler of a count is not negative. -/
theorem scalerOf_nonneg (hW : 1 ≤ p.W) (n : WordOf p) : 0 ≤ (scalerOf p n).toInt := by
  have hone : 0 ≤ p.ONE := Int.natCast_nonneg _
  rw [scalerOf, toInt_word_of_fits hW (fxrcp_fits _)]
  exact fxrcp_nonneg (sat_nonneg (mul_nonneg (Int.natCast_nonneg _) hone))

theorem Bin.Sound.gzUpdate (hW : 1 ≤ p.W) {bn : Bin p} (h : bn.Sound) (n : WordOf p) {scaler : WordOf p}
    (hs : 0 ≤ scaler.toInt) (x : Int) : (bn.gzUpdate n scaler x).Sound := by
  obtain ⟨-, hmag, hprev⟩ := h
  obtain ⟨-, hupd⟩ | ⟨-, hupd⟩ := bn.gzUpdate_cases n scaler x
  · obtain ⟨hnonneg, hfits⟩ := goertzelMag_nonneg (p := p) (bn.newQ0 x) bn.q1.toInt bn.coef.toInt hs
    rw [hupd]
    exact ⟨rfl, by rw [toInt_word_of_fits hW hfits]; exact hnonneg, hprev⟩
  · rw [hupd]
    exact ⟨rfl, hmag, hprev⟩

/-- R161: a position inside a block advances inside it, or starts the next block. -/
theorem blkPos_gzUpdate_lt {n : WordOf p} {bn : Bin p} (h : bn.blkPos.toNat < n.toNat) (scaler : WordOf p) (x : Int) :
    (bn.gzUpdate n scaler x).blkPos.toNat < n.toNat := by
  have hn : n.toNat < 2 ^ p.W := n.isLt
  rw [blkPos_gzUpdate]
  split
  next => exact toNat_zero_lt (by omega)
  next hlast =>
    have hsucc : (bn.blkPos + 1).toNat ≤ bn.blkPos.toNat + 1 := by
      rw [BitVec.toNat_add]
      refine (Nat.mod_le _ _).trans (Nat.add_le_add_left ?_ _)
      exact Nat.mod_le _ _
    omega

/-- R31, R33: the band's registers with the scaler their bounds rest on. -/
structure Band.Healthy (bd : Band p) : Prop where
  scaler : 0 ≤ bd.magScaler.toInt
  sound : bd.Sound
  inside : bd.InsideBlock

/-- R181: the new write index is a slot of the window, so a word holds it, and the flux stored is not negative. -/
theorem Band.Sound.fluxBlock (hW : 32 ≤ p.W) (hwin : 1 ≤ p.WIN) {bd : Band p} (h : bd.Sound) : bd.fluxBlock.Sound := by
  obtain ⟨hbins, -, hflux⟩ := h
  refine ⟨fun j => ?_, ?_, fun k => ?_⟩
  · obtain ⟨hq, hmag, hprev⟩ := hbins j
    rw [Band.get_fluxBlock]
    split
    next => exact ⟨hq, hmag, hmag⟩
    next => exact ⟨hq, hmag, hprev⟩
  · rw [Band.fluxBlock_wrIdx, BitVec.toNat_ofNat]
    exact (Nat.mod_le _ _).trans_lt (nextWrIdx_lt hwin bd)
  · rw [Band.fluxBlock_fluxHist, Table.get_set]
    split
    next =>
      rw [toInt_word_of_fits (by omega) bd.flux_fits]
      exact flux_nonneg fun j => (hbins j).2
    next => exact hflux k

theorem BandStep.healthy (hW : 32 ≤ p.W) (hwin : 1 ≤ p.WIN) {bd bd' : Band p} (hstep : BandStep bd bd') (h : bd.Healthy) :
    bd'.Healthy := by
  obtain ⟨hs, ⟨hbins, hwr, hflux⟩, hinside⟩ := h
  have hW1 : 1 ≤ p.W := by omega
  cases hstep with
  | gz j x hj =>
    refine ⟨hs, ⟨fun j' => ?_, hwr, hflux⟩, fun j' hj' => ?_⟩
    · rw [Band.gzUpdate_bins, Table.get_set]
      split
      next => exact (hbins j).gzUpdate hW1 _ hs x
      next => exact hbins j'
    · rw [Band.gzUpdate_bins, Table.get_set]
      split
      next => exact blkPos_gzUpdate_lt (hinside j hj) _ _
      next => exact hinside j' hj'
  | bank x =>
    refine ⟨hs, ⟨fun j => ?_, hwr, hflux⟩, fun j hj => ?_⟩
    · rw [Band.get_bankUpdate]
      split
      next => exact (hbins j).gzUpdate hW1 _ hs x
      next => exact hbins j
    · rw [Band.bankUpdate_size] at hj
      rw [Band.get_bankUpdate, if_pos hj]
      exact blkPos_gzUpdate_lt (hinside j hj) _ _
  | flux =>
    refine ⟨hs, Band.Sound.fluxBlock hW hwin ⟨hbins, hwr, hflux⟩, fun j hj => ?_⟩
    rw [blkPos_fluxBlock]
    exact hinside j hj
  | publish n => exact ⟨hs, ⟨hbins, hwr, hflux⟩, hinside⟩

/-- R202: the construction zeroes what the invariant binds. -/
theorem bandInv_construct (hwin : 1 ≤ p.WIN) {s : StateOf p} (hvalid : ConfigValid s) (h : BandInv s) :
    BandInv (construct s) := by
  rw [bandInv_iff] at h ⊢
  obtain ⟨hsound, -⟩ := h
  obtain ⟨-, -, hbands⟩ := hvalid
  have hzero : 0 ≤ (0 : WordOf p).toInt := toInt_zero.ge
  refine ⟨fun b => ⟨fun j => ?_, ?_, fun k => ?_⟩, fun _ b hb j hj => ?_⟩
  · rw [← bin_eq, bin_construct]
    split
    next => exact ⟨rfl, hzero, hzero⟩
    next => exact (hsound b).1 j
  · rw [band_construct]
    split
    next => exact toNat_zero_lt hwin
    next => exact (hsound b).2.1
  · rw [fluxHist_construct]
    split
    next => exact hzero
    next => exact (hsound b).2.2 k
  · rw [construct_nbands] at hb
    obtain ⟨hblock, -, -, hmaxbins⟩ := hbands b hb
    rw [band_construct, if_pos hb, Band.construct_size] at hj
    rw [← bin_eq, bin_construct, if_pos ⟨hb, by omega⟩, band_construct, if_pos hb, Band.construct_blockLen]
    exact toNat_zero_lt hblock

theorem bandInv_commandEffect (hW : 32 ≤ p.W) (hwin : 1 ≤ p.WIN) {i : Instr} {s : StateOf p} (ha : Admitted i s.mode)
    (hidx : IndicesInRange i s) (hc : ConfigInv s) (h : BandInv s) : BandInv (commandEffect i s) := by
  by_cases hi : i = .init
  · subst hi
    obtain ⟨hvalid, hinit⟩ | ⟨c, -, hinit⟩ := initPipeline_inversion s
    · rw [commandEffect, hinit]
      exact bandInv_construct hwin hvalid h
    · rw [commandEffect, hinit]
      obtain ⟨hbins, hwr, hflux, -⟩ := h
      exact ⟨hbins, hwr, hflux, nofun⟩
  · obtain hfx | hm := isFx_or_running_of_admitted hi ha
    · obtain ⟨z, hz⟩ := commandEffect_of_isFx hfx s
      rw [hz]
      exact h
    · rw [bandInv_iff] at h ⊢
      obtain ⟨hsound, hrun⟩ := h
      obtain ⟨-, hscalers⟩ := hc hm
      obtain ⟨hn, -⟩ := setup_commandEffect hi hidx
      have hused {b : Nat} (hb : b < s.nbands.toNat) : (band (commandEffect i s) b).Healthy := by
        obtain ⟨hscaler, -⟩ := hscalers b hb
        have hnonneg : 0 ≤ (band s b).magScaler.toInt := hscaler ▸ scalerOf_nonneg (by omega) _
        exact commandEffect_keeps_band (fun _ _ => BandStep.healthy hW hwin) (fun _ hbd => ⟨hbd.scaler, hbd.sound, hbd.inside⟩)
          hi hidx ⟨hnonneg, hsound b, hrun hm b hb⟩
      refine ⟨fun b => ?_, fun _ b hb => (hused (hn ▸ hb)).inside⟩
      obtain hb | hb := Nat.lt_or_ge b s.nbands.toNat
      · exact (hused hb).sound
      · rw [band_commandEffect_unused hi hidx hb]
        exact hsound b

/-- R65: a stored word changes none of the registers that the invariant binds, but for the configuration before `INIT`. -/
theorem Band.SameDynamic.sound {bd bd' : Band p} (h : bd.SameDynamic bd') (hs : bd.Sound) : bd'.Sound := by
  obtain ⟨hbins, hwr, hflux⟩ := hs
  have hband := h.band
  refine ⟨fun j => ?_, by rw [hband]; exact hwr, fun k => by rw [hband]; exact hflux k⟩
  have hbin := h.bins j
  rw [Bin.SameDynamic] at hbin
  rw [hbin]
  exact hbins j

theorem bandInv_storeReg {reg : Reg} {s : StateOf p} (hstores : Stores .p reg s.mode) (v : WordOf p) (h : BandInv s) :
    BandInv (storeReg reg v s) := by
  obtain hop | hm := hstores.operand_or_unconfigured
  · obtain ⟨_, _, _, hstore⟩ := storeReg_of_operand hop v s
    rw [hstore]
    exact h
  · rw [bandInv_iff] at h ⊢
    obtain ⟨hsound, -⟩ := h
    have hrun : (storeReg reg v s).mode ≠ .running := by rw [storeReg_mode, hm]; decide
    exact ⟨fun b => (sameDynamic_storeReg reg v s b).sound (hsound b), fun hr => absurd hr hrun⟩

theorem bandInv_resetState (hwin : 1 ≤ p.WIN) : BandInv (resetState p) := by
  have hzero : 0 ≤ (0 : WordOf p).toInt := toInt_zero.ge
  exact ⟨fun _ _ => ⟨rfl, hzero, hzero⟩, fun _ => toNat_zero_lt hwin, fun _ _ => hzero, nofun⟩

theorem stepKeeps_bandInv (hW : 32 ≤ p.W) (hwin : 1 ≤ p.WIN) :
    StepKeeps (p := p) (fun s => ConfigInv s ∧ BandInv s) BandInv where
  pending _ _ h := h
  answers _ _ h := h
  idle _ h := h.2
  error s c _ h := by
    obtain ⟨-, hb⟩ := h
    rw [raiseErr_eq]
    exact hb
  store _ _ v _ hstores h := by
    obtain ⟨-, hb⟩ := h
    exact bandInv_storeReg hstores v hb
  command _ _ ha hidx h := by
    obtain ⟨hc, hb⟩ := h
    exact bandInv_commandEffect hW hwin ha hidx hc hb
  reset _ := bandInv_resetState hwin

/-! ### After reset -/

/-- R40: after reset every invariant holds in any build whose window has a slot. -/
theorem resetState_invariants (hwin : 1 ≤ p.WIN) :
    ConfigInv (resetState p) ∧ GainInv (resetState p) ∧ LifecycleInv (resetState p) ∧ UnusedInv (resetState p) ∧
      BandInv (resetState p) :=
  ⟨nofun, gainInv_resetState, lifecycleInv_resetState, unusedInv_resetState, bandInv_resetState hwin⟩

end

/-- Settles O22: `stepKeeps_unusedInv` at the default build. -/
theorem unusedInvKept : Obligations.UnusedInvKept := fun _ _ hc hl hu hstep =>
  (stepKeeps_unusedInv (by decide)).stepAt ⟨hc, hl, hu⟩ (stepAt_build ▸ hstep)

/-- Settles O23: `stepKeeps_bandInv` at the default build. -/
theorem bandInvKept : Obligations.BandInvKept := fun _ _ hc hb hstep =>
  (stepKeeps_bandInv (by decide) (by decide)).stepAt ⟨hc, hb⟩ (stepAt_build ▸ hstep)

/-- Settles O60: the five `stepKeeps` lemmas in a legal build, which has a window, an envelope and a word of 32 bits or more. -/
theorem everyBuildKeepsInvariants : Obligations.EveryBuildKeepsInvariants := by
  intro p hp
  obtain ⟨⟨hW, -⟩, hcapacities, -, -⟩ := hp
  have hwin : 1 ≤ p.WIN := by
    obtain ⟨-, -, -, hwin, -⟩ := hcapacities
    exact hwin
  refine ⟨resetState_invariants hwin, fun s t hc hg hl hu hb hstep => ?_⟩
  exact ⟨stepKeeps_configInv.stepAt hc hstep, stepKeeps_gainInv.stepAt hg hstep, stepKeeps_lifecycleInv.stepAt hl hstep,
    (stepKeeps_unusedInv hcapacities).stepAt ⟨hc, hl, hu⟩ hstep, (stepKeeps_bandInv hW hwin).stepAt ⟨hc, hb⟩ hstep⟩

/-- Settles O18: the reset state is that of the default build, and its gain is the first entry of the reset table. -/
theorem resetHasInvariants : Obligations.ResetHasInvariants := by
  obtain ⟨hc, hg, hl, hu, hb⟩ := resetState_invariants (p := build) (by decide)
  exact ⟨hc, hg, hl, hu, hb, get_swtabReset 0⟩

end Sys2Proof.Machine
end

/-! SUPPORT and proofs: what `STATUS` reads as, and the loader's checks (spec/10_state.md R24, spec/46_pipeline.md R210). -/

section
open Sys2Proof Sys2Proof.Config

namespace Sys2Proof.Machine

/-! ### `STATUS` (R24, R230, R231) -/

/-- R24: the two codes fit the word. -/
theorem toNat_readReg_status (s : State) : (readReg s .status).toNat = s.mode.code + 256 * s.cause.code := by
  have hcodes : s.mode.code + 256 * s.cause.code < 2 ^ 32 := by
    cases s.mode <;> cases s.cause <;> decide
  exact Nat.mod_eq_of_lt hcodes

/-- Settles O58: the codes of the modes and of the causes are those written out. -/
theorem statusReads : Obligations.StatusReads := by
  refine ⟨fun s => ?_, rfl, rfl, rfl⟩
  rw [toNat_readReg_status]
  cases s.mode <;> cases s.cause <;> rfl

/-! ### The loader's checks (R210) -/

/-- The first element of a list with an answer gives the answer of the search. -/
theorem findSome?_of_first {α β : Type} {f : α → Option β} {d : α} {v : β} :
    ∀ {l : List α} {b : Nat}, b < l.length → f (l.getD b d) = some v → (∀ b' < b, f (l.getD b' d) = none) →
      l.findSome? f = some v
  | [], _, hb, _, _ => absurd hb (Nat.not_lt_zero _)
  | x :: l, 0, _, hv, _ => by
    rw [List.getD_cons_zero] at hv
    rw [List.findSome?_cons, hv]
  | x :: l, b + 1, hb, hv, hbefore => by
    have hx : f x = none := hbefore 0 (Nat.succ_pos b)
    rw [List.getD_cons_succ] at hv
    rw [List.findSome?_cons, hx]
    exact findSome?_of_first (Nat.lt_of_succ_lt_succ hb) hv fun b' hb' => hbefore (b' + 1) (Nat.succ_lt_succ hb')

theorem bandFailure_eq_none_iff (pb : PhysBand) :
    bandFailure pb = none ↔ pb.blockLen ≠ 0 ∧ pb.startFreq < pb.endFreq := by
  unfold bandFailure
  split
  next h => simp [h]
  next h =>
    split
    next hf => simp [h, hf]
    next hf => simp [h, not_le.1 hf]

section
variable {c : PhysConfig build}

/-- R210: the checks of single bands decide before those of the whole configuration. -/
theorem loaderCheck_of_bandFailure (hrate : 0 < c.sampleRate) {e : Cause} (h : c.bands.findSome? bandFailure = some e) :
    loaderCheck c = e := by
  rw [loaderCheck, if_neg (not_le.2 hrate), h]

/-- R210: the checks of the whole configuration, in the model's order (notes/assumptions/9.md). -/
theorem loaderCheck_of_bands (hrate : 0 < c.sampleRate) (h : ∀ pb ∈ c.bands, bandFailure pb = none) :
    loaderCheck c =
      if ∃ pb ∈ c.bands, 256 < bankSize c pb then .cfgSize
      else if ∃ pb ∈ c.bands, 32767 < pb.blockLen then .cfgBlocklen
      else if c.bands.length = 0 ∨ 8 < c.bands.length then .cfgNbands
      else .none := by
  rw [loaderCheck, if_neg (not_le.2 hrate), List.findSome?_eq_none_iff.2 h]
  simp only [List.any_eq_true, decide_eq_true_eq, NMAX_eq]

/-- R210: what the checks guarantee when all pass. -/
theorem bounds_of_loaderCheck (h : loaderCheck c = .none) :
    1 ≤ c.bands.length ∧ c.bands.length ≤ 8 ∧
      ∀ pb ∈ c.bands, 1 ≤ pb.blockLen ∧ pb.blockLen ≤ 32767 ∧ bankSize c pb ≤ 256 := by
  have hrate : 0 < c.sampleRate := by
    by_contra hneg
    rw [loaderCheck, if_pos (not_lt.1 hneg)] at h
    cases h
  have hbands : ∀ pb ∈ c.bands, bandFailure pb = none := by
    cases hfail : c.bands.findSome? bandFailure with
    | none => exact List.findSome?_eq_none_iff.1 hfail
    | some e =>
      rw [loaderCheck_of_bandFailure hrate hfail] at h
      obtain ⟨pb, -, hpb⟩ := List.exists_of_findSome?_eq_some hfail
      unfold bandFailure at hpb
      rw [h] at hpb
      split at hpb
      next => cases hpb
      next => split at hpb <;> cases hpb
  rw [loaderCheck_of_bands hrate hbands] at h
  split at h
  next => cases h
  next hsize =>
    split at h
    next => cases h
    next hlen =>
      split at h
      next => cases h
      next hcount =>
        refine ⟨by omega, by omega, fun pb hpb => ?_⟩
        obtain ⟨hblock, -⟩ := (bandFailure_eq_none_iff pb).1 (hbands pb hpb)
        exact ⟨by omega, not_lt.1 fun hlt => hlen ⟨pb, hpb, hlt⟩, not_lt.1 fun hlt => hsize ⟨pb, hpb, hlt⟩⟩

end

/-- Settles O56: the first failing band decides by `findSome?_of_first`, and with none the rest is `loaderCheck_of_bands`. -/
theorem loaderChecks : Obligations.LoaderChecks := by
  refine fun c w => ⟨fun hrate => if_pos hrate, fun hrate b hb hbefore => ?_, fun hrate hbands => ?_, fun h => ?_⟩
  · have hfirst {e : Cause} (he : bandFailure (c.bands.getD b ⟨0, 0, 0⟩) = some e) : loaderCheck c = e :=
      loaderCheck_of_bandFailure hrate
        (findSome?_of_first hb he fun b' hb' => (bandFailure_eq_none_iff _).2 (hbefore b' hb'))
    exact ⟨fun hlen => hfirst (if_pos hlen), fun hlen hfreq => hfirst ((if_neg hlen).trans (if_pos hfreq))⟩
  · rw [loaderCheck_of_bands hrate fun pb hpb => (bandFailure_eq_none_iff pb).2 (hbands pb hpb)]
    refine ⟨fun hsize => if_pos hsize, fun hsize => ?_⟩
    rw [if_neg (by simpa using hsize)]
    refine ⟨fun hlen => if_pos hlen, fun hlen => ?_⟩
    rw [if_neg (by simpa using hlen)]
    exact ⟨fun hcount => if_pos hcount, fun hone hmax => if_neg (by omega)⟩
  · rw [loaderProgram_of_failure w h]
    rfl

end Sys2Proof.Machine
end

/-! SUPPORT and proofs: the run of the loader's program from reset (spec/46_pipeline.md R216, spec/70_reset_and_hazards.md R263). -/

section
open Sys2Proof Sys2Proof.Config

namespace Sys2Proof.Machine

/-! ### The lines that configure the block (R263 (3)) -/

section
variable (c : PhysConfig build) (w : LoaderWords build)

/-- R263 (3): the lines before `INIT`. -/
def configLines : List (HostLine build) :=
  .wr .nbands (BitVec.ofNat 32 c.bands.length) ::
    (((List.range c.bands.length).flatMap fun b => bandLines c w b (c.bands.getD b ⟨0, 0, 0⟩)) ++
      sharedLines c w ++ gainTableLines c ++ [.wr .ctrl (bitWord build c.aggNorm)])

theorem loaderProgram_of_check (h : loaderCheck c = .none) :
    loaderProgram c w = configLines c w ++ [.command .init, .rd .p .status] := by
  rw [loaderProgram, if_pos h]
  simp only [configLines, List.cons_append, List.append_assoc, List.nil_append]

/-- R263 (3): the word that the loader writes to a register, if it writes one. -/
def configWord : Reg → Option Word
  | .nbands => some (BitVec.ofNat 32 c.bands.length)
  | .ctrl => some (bitWord build c.aggNorm)
  | .dcbA0 => some w.dcbA0
  | .envAtk e => if e = 0 then some w.envAtk else none
  | .envRel e => if e = 0 then some w.envRel else none
  | .agcHold => some c.hold
  | .agcLow => c.low
  | .agcHigh => c.high
  | .agcSwtab k => if k < 8 then c.gainTable.map (·.toList.getD k 0) else none
  | .blockLen b => if b < c.bands.length then some (BitVec.ofNat 32 (c.bands.getD b ⟨0, 0, 0⟩).blockLen) else none
  | .size b => if b < c.bands.length then some (BitVec.ofNat 32 (bankSize c (c.bands.getD b ⟨0, 0, 0⟩))) else none
  | .coef b j =>
    if b < c.bands.length ∧ j < bankSize c (c.bands.getD b ⟨0, 0, 0⟩) then some ((w.coef.getD b []).getD j 0) else none
  | _ => none

theorem mem_bandLines_iff (b : Nat) (pb : PhysBand) (reg : Reg) (v : Word) :
    .wr reg v ∈ bandLines c w b pb ↔
      (reg = .blockLen b ∧ v = BitVec.ofNat 32 pb.blockLen) ∨ (reg = .size b ∧ v = BitVec.ofNat 32 (bankSize c pb)) ∨
        ∃ j < bankSize c pb, reg = .coef b j ∧ v = (w.coef.getD b []).getD j 0 := by
  simp [bandLines, eq_comm]

theorem mem_sharedLines_iff (reg : Reg) (v : Word) :
    .wr reg v ∈ sharedLines c w ↔
      (reg = .dcbA0 ∧ v = w.dcbA0) ∨ (reg = .envAtk 0 ∧ v = w.envAtk) ∨ (reg = .envRel 0 ∧ v = w.envRel) ∨
        (reg = .agcHold ∧ v = c.hold) ∨ (reg = .agcLow ∧ c.low = some v) ∨ (reg = .agcHigh ∧ c.high = some v) := by
  simp [sharedLines, optionalLine, eq_comm, and_comm]

theorem mem_gainTableLines_iff (reg : Reg) (v : Word) :
    .wr reg v ∈ gainTableLines c ↔
      ∃ k < 8, reg = .agcSwtab k ∧ c.gainTable.map (·.toList.getD k 0) = some v := by
  unfold gainTableLines
  cases c.gainTable with
  | none => simp
  | some table => simp [eq_comm]

/-- R263 (3): the lines write to each register the word of `configWord` and no other. -/
theorem mem_configLines_iff (reg : Reg) (v : Word) : .wr reg v ∈ configLines c w ↔ configWord c w reg = some v := by
  simp only [configLines, List.mem_cons, List.mem_append, List.mem_flatMap, List.mem_range, mem_bandLines_iff,
    mem_sharedLines_iff, mem_gainTableLines_iff, HostLine.wr.injEq, List.not_mem_nil, or_false]
  cases reg <;> simp [configWord, eq_comm, and_assoc]

end

/-- R62, R263 (3): with the checks passed the lines write configuration registers of the map. -/
theorem configWord_some {c : PhysConfig build} {w : LoaderWords build} (h : loaderCheck c = .none) {reg : Reg} {v : Word}
    (hv : configWord c w reg = some v) : reg.isMapped build = true ∧ reg.regClass = .configuration := by
  obtain ⟨-, hmax, hbands⟩ := bounds_of_loaderCheck h
  cases reg
  case nbands | ctrl | dcbA0 | agcHold | agcLow | agcHigh => exact ⟨rfl, rfl⟩
  case envAtk e | envRel e =>
    have he : e = 0 := (Option.ite_none_right_eq_some.1 hv).1
    subst he
    exact ⟨rfl, rfl⟩
  case agcSwtab k =>
    have hk : k < 8 := (Option.ite_none_right_eq_some.1 hv).1
    exact ⟨decide_eq_true hk, rfl⟩
  case blockLen b | size b =>
    have hb : b < c.bands.length := (Option.ite_none_right_eq_some.1 hv).1
    exact ⟨decide_eq_true (Nat.lt_of_lt_of_le hb hmax), rfl⟩
  case coef b j =>
    obtain ⟨hb, hj⟩ := (Option.ite_none_right_eq_some.1 hv).1
    rw [List.getD_eq_getElem _ _ hb] at hj
    obtain ⟨-, -, hsize⟩ := hbands _ (List.getElem_mem hb)
    have hcap : b < build.MAXBANDS ∧ j < build.MAXBINS := ⟨Nat.lt_of_lt_of_le hb hmax, Nat.lt_of_lt_of_le hj hsize⟩
    exact ⟨by simpa [Reg.isMapped] using hcap, rfl⟩
  all_goals cases hv

/-- R263 (3): before `INIT` the loader only writes registers. -/
theorem eq_wr_of_mem_configLines {c : PhysConfig build} {w : LoaderWords build} {line : HostLine build}
    (h : line ∈ configLines c w) : ∃ reg v, line = .wr reg v := by
  cases line with
  | wr reg v => exact ⟨reg, v, rfl⟩
  | command | rd | setA | setB | tick =>
    cases htab : c.gainTable <;> simp [configLines, bandLines, sharedLines, optionalLine, gainTableLines, htab] at h

/-! ### The run of lines that store (R65) -/

/-- R65: what a line that writes a register stores. -/
def HostLine.store (line : HostLine build) (s : State) : State :=
  match line with
  | .wr reg v => storeReg reg v s
  | _ => s

/-- R65: what the lines store, one after the other. -/
def storeLines (lines : List (HostLine build)) (s : State) : State := lines.foldl (fun s line => line.store s) s

theorem storeLines_cons (line : HostLine build) (lines : List (HostLine build)) (s : State) :
    storeLines (line :: lines) s = storeLines lines (line.store s) := rfl

/-- R65: a register reads as the word that the lines write to it, or as before if they write none. -/
theorem readReg_storeLines {reg : Reg} (hconf : reg.regClass = .configuration) (hctrl : reg ≠ .ctrl) {v : Word}
    (lines : List (HostLine build)) (s : State) (huniq : ∀ v', .wr reg v' ∈ lines → v' = v)
    (hv : readReg s reg = v ∨ .wr reg v ∈ lines) : readReg (storeLines lines s) reg = v := by
  induction lines generalizing s with
  | nil => exact hv.resolve_right (List.not_mem_nil)
  | cons line lines ih =>
    rw [storeLines_cons]
    refine ih _ (fun v' hv' => huniq v' (List.mem_cons_of_mem _ hv')) ?_
    by_cases hline : ∃ v', line = .wr reg v'
    · obtain ⟨v', rfl⟩ := hline
      obtain rfl := huniq v' List.mem_cons_self
      exact .inl (readReg_storeReg_same (.inr hconf) (by rintro rfl; cases hconf) hctrl v' s)
    · have hkeep : readReg (line.store s) reg = readReg s reg := by
        cases line with
        | wr reg' v' =>
          refine readReg_storeReg_other (fun heq => hline ⟨v', ?_⟩) v' s
          rw [heq]
        | _ => rfl
      refine hv.imp hkeep.trans fun hmem => (List.mem_cons.1 hmem).resolve_left fun heq => hline ⟨v, heq.symm⟩

/-- R65: the lines change neither the mode nor the cause, nor what the host has to do and was answered. -/
theorem storeLines_frame (lines : List (HostLine build)) (s : State) :
    (storeLines lines s).mode = s.mode ∧ (storeLines lines s).cause = s.cause ∧
      (storeLines lines s).pending = s.pending ∧ (storeLines lines s).answers = s.answers := by
  induction lines generalizing s with
  | nil => exact ⟨rfl, rfl, rfl, rfl⟩
  | cons line lines ih =>
    obtain ⟨hmode, hcause, hpending, hanswers⟩ := ih (line.store s)
    rw [storeLines_cons, hmode, hcause, hpending, hanswers]
    cases line with
    | wr reg v =>
      obtain ⟨_, _, _, _, _, _, _, _, _, _, _, _, hstore⟩ := storeReg_frame reg v s
      rw [HostLine.store, hstore]
      exact ⟨rfl, rfl, rfl, rfl⟩
    | _ => exact ⟨rfl, rfl, rfl, rfl⟩

/-- The host's operations to come are no register. -/
theorem storeReg_pending (reg : Reg) (v : Word) (s : State) (ops : List (BusOp build)) :
    storeReg reg v { s with pending := ops } = { storeReg reg v s with pending := ops } := by
  cases reg <;> rfl

theorem run_succ_of_next (M : Host.Core) {s t : M.State} (h : M.step s = .next t) (k : Nat) :
    M.run (k + 1) s = M.run k t := by
  rw [Host.Core.run, h]

/-- One step of a run. -/
theorem run_succ_of_step {s t : State} (h : step s = .next t) (k : Nat) :
    Sys2Proof.core.run (k + 1) s = Sys2Proof.core.run k t :=
  run_succ_of_next Sys2Proof.core h k

/-- R63, R65: before `INIT` a line that writes a configuration register of the map is one step, and stores its word. -/
theorem step_of_line {reg : Reg} (hmapped : reg.isMapped build = true) (hconf : reg.regClass = .configuration) {s : State}
    (hm : s.mode = .unconfigured) (v : Word) (ops : List (BusOp build)) :
    step { s with pending := (HostLine.wr reg v).operations ++ ops } =
      .next { (HostLine.wr reg v).store s with pending := ops } := by
  have hstores : Stores .p reg { s with pending := ops }.mode := ⟨rfl, .inr ⟨hconf, hm⟩⟩
  have hw : step { s with pending := .write .p reg.addr v :: ops } = regWrite exec .p reg.addr v { s with pending := ops } :=
    step_of_write rfl
  rw [regWrite_of_stores exec v (decodeAddr_addr (by decide) (by decide) hmapped) hstores, storeReg_pending] at hw
  exact hw

theorem run_storeLines {lines : List (HostLine build)}
    (hlines : ∀ line ∈ lines, ∃ reg v, line = .wr reg v ∧ reg.isMapped build = true ∧ reg.regClass = .configuration)
    {s : State} (hm : s.mode = .unconfigured) (k : Nat) (ops : List (BusOp build)) :
    Sys2Proof.core.run ((hostProgram lines).length + k) { s with pending := hostProgram lines ++ ops } =
      Sys2Proof.core.run k { storeLines lines s with pending := ops } := by
  induction lines generalizing s with
  | nil =>
    rw [hostProgram, List.flatMap_nil, List.length_nil, Nat.zero_add]
    rfl
  | cons line lines ih =>
    obtain ⟨reg, v, rfl, hmapped, hconf⟩ := hlines line List.mem_cons_self
    have hlen : (hostProgram (HostLine.wr reg v :: lines)).length + k = ((hostProgram lines).length + k) + 1 := by
      simp [hostProgram, HostLine.operations]
      omega
    have hops : hostProgram (HostLine.wr reg v :: lines) ++ ops =
        (HostLine.wr reg v).operations ++ (hostProgram lines ++ ops) := by
      simp [hostProgram]
    rw [hlen, hops, run_succ_of_step (step_of_line hmapped hconf hm v _)]
    exact ih (fun line hline => hlines line (List.mem_cons_of_mem _ hline)) ((storeReg_mode reg v s).trans hm)

/-! ### The block before `INIT` (R263 (3)) -/

/-- R263 (3): the block as the loader's lines configure it, from reset. -/
def configured (c : PhysConfig build) (w : LoaderWords build) : State := storeLines (configLines c w) State.reset

section
variable {c : PhysConfig build} {w : LoaderWords build}

/-- R263 (3): a configuration register holds the word the loader wrote, or its reset value. -/
theorem readReg_configured {reg : Reg} (hconf : reg.regClass = .configuration) (hctrl : reg ≠ .ctrl) :
    readReg (configured c w) reg = (configWord c w reg).getD (readReg State.reset reg) := by
  refine readReg_storeLines hconf hctrl _ _ (fun v hv => ?_) ?_
  · rw [(mem_configLines_iff c w reg v).1 hv, Option.getD_some]
  · cases hword : configWord c w reg with
    | none => exact .inl rfl
    | some v => exact .inr ((mem_configLines_iff c w reg v).2 hword)

/-- R27: `CTRL` is written last, and keeps the one bit. -/
theorem aggNorm_configured : (configured c w).aggNorm = c.aggNorm := by
  have hbit (x : Bool) : (bitWord build x).getLsbD 0 = x := by cases x <;> rfl
  rw [configured, configLines, ← List.cons_append, storeLines, List.foldl_append]
  exact hbit c.aggNorm

/-- R211: the bands' counts are below `2^32`, so the words written read as them. -/
theorem counts_configured (h : loaderCheck c = .none) :
    (configured c w).nbands.toNat = c.bands.length ∧ ∀ b < c.bands.length,
      (band (configured c w) b).blockLen.toNat = (c.bands.getD b ⟨0, 0, 0⟩).blockLen ∧
        (band (configured c w) b).size.toNat = bankSize c (c.bands.getD b ⟨0, 0, 0⟩) := by
  obtain ⟨-, hmax, hbands⟩ := bounds_of_loaderCheck h
  have hn : (configured c w).nbands = BitVec.ofNat 32 c.bands.length := readReg_configured (reg := .nbands) rfl nofun
  refine ⟨by rw [hn]; exact Nat.mod_eq_of_lt (by omega), fun b hb => ?_⟩
  have hlen : (band (configured c w) b).blockLen = BitVec.ofNat 32 (c.bands.getD b ⟨0, 0, 0⟩).blockLen := by
    refine (readReg_configured (reg := .blockLen b) rfl nofun).trans ?_
    rw [configWord, if_pos hb, Option.getD_some]
  have hsize : (band (configured c w) b).size = BitVec.ofNat 32 (bankSize c (c.bands.getD b ⟨0, 0, 0⟩)) := by
    refine (readReg_configured (reg := .size b) rfl nofun).trans ?_
    rw [configWord, if_pos hb, Option.getD_some]
  have hmem : c.bands.getD b ⟨0, 0, 0⟩ ∈ c.bands := by
    rw [List.getD_eq_getElem _ _ hb]
    exact List.getElem_mem hb
  obtain ⟨-, hlenMax, hsizeMax⟩ := hbands _ hmem
  rw [hlen, hsize]
  exact ⟨Nat.mod_eq_of_lt (by omega), Nat.mod_eq_of_lt (by omega)⟩

/-- R201, R210: what the loader's checks pass, `INIT`'s checks pass. -/
theorem configValid_configured (h : loaderCheck c = .none) : ConfigValid (configured c w) := by
  obtain ⟨hone, hmax, hbands⟩ := bounds_of_loaderCheck h
  obtain ⟨hn, hcounts⟩ := counts_configured (w := w) h
  rw [ConfigValid, hn]
  refine ⟨hone, hmax, fun b hb => ?_⟩
  obtain ⟨hlen, hsize⟩ := hcounts b hb
  have hmem : c.bands.getD b ⟨0, 0, 0⟩ ∈ c.bands := by
    rw [List.getD_eq_getElem _ _ hb]
    exact List.getElem_mem hb
  obtain ⟨hlen1, hlenMax, hsizeMax⟩ := hbands _ hmem
  rw [BandConfigOk, hlen, hsize, NMAX_eq]
  exact ⟨hlen1, hlenMax, Nat.le_add_right 1 _, hsizeMax⟩

/-! ### `INIT` and the read of `STATUS` (R263 (4)) -/

/-- R263 (4): the block as the loader's whole program leaves it. -/
def loaded (c : PhysConfig build) (w : LoaderWords build) : State :=
  answer .p 0x0002#16 0x00000001#32 (construct (configured c w))

theorem configured_frame : (configured c w).mode = .unconfigured ∧ (configured c w).cause = .none ∧
    (configured c w).pending = [] ∧ (configured c w).answers = [] :=
  storeLines_frame (configLines c w) State.reset

/-- R200: the write of `INIT`'s word constructs the pipeline. -/
theorem step_init_configured (h : loaderCheck c = .none) (ops : List (BusOp build)) :
    step { configured c w with pending := commandOp build .init :: ops } =
      .next { construct (configured c w) with pending := ops } := by
  obtain ⟨hm, -⟩ := configured_frame (c := c) (w := w)
  have hexec := stepRunsDecodedCommand { configured c w with pending := commandOp build .init :: ops } .cmd 0x01000000#32
    .init ops (by decide) rfl
  have hvalid : ConfigValid { configured c w with pending := ops } := configValid_configured h
  rw [exec_init_of_unconfigured (s := { configured c w with pending := ops }) hm, initPipeline_of_configValid hvalid] at hexec
  exact hexec

/-- R64, R263 (4): the read of `STATUS` answers `RUNNING` with no cause. -/
theorem step_status_configured :
    step { construct (configured c w) with pending := [.read .p Reg.status.addr] } = .next (loaded c w) := by
  obtain ⟨-, hcause, hpending, -⟩ := configured_frame (c := c) (w := w)
  have hreg : decodeAddr build Reg.status.addr = some .status := by decide
  have hsame : { construct (configured c w) with pending := [] } = construct (configured c w) := by
    rw [← hpending]
    rfl
  have hstatus : readReg (construct (configured c w)) .status = 0x00000001#32 := by
    refine BitVec.eq_of_toNat_eq ?_
    rw [toNat_readReg_status, construct_mode, construct_cause, hcause]
    rfl
  have hstep := step_of_read (s := { construct (configured c w) with pending := [.read .p Reg.status.addr] }) rfl
  obtain ⟨hvalue, hstate⟩ := regRead_of_mapped hreg (construct (configured c w))
  simp only [hsame, hvalue, hstate, hstatus] at hstep
  exact hstep

/-- R263: the loader's program runs to its end. -/
theorem run_loaderProgram (h : loaderCheck c = .none) :
    Sys2Proof.core.run (hostProgram (loaderProgram c w)).length
      { State.reset with pending := hostProgram (loaderProgram c w) } = .next (loaded c w) := by
  have hlines : ∀ line ∈ configLines c w,
      ∃ reg v, line = .wr reg v ∧ reg.isMapped build = true ∧ reg.regClass = .configuration := by
    intro line hline
    obtain ⟨reg, v, rfl⟩ := eq_wr_of_mem_configLines hline
    exact ⟨reg, v, rfl, configWord_some h ((mem_configLines_iff c w reg v).1 hline)⟩
  have hprogram : hostProgram (loaderProgram c w) =
      hostProgram (configLines c w) ++ [commandOp build .init, .read .p Reg.status.addr] := by
    rw [loaderProgram_of_check c w h, hostProgram, List.flatMap_append]
    rfl
  have hlen : (hostProgram (loaderProgram c w)).length = (hostProgram (configLines c w)).length + 2 := by
    rw [hprogram, List.length_append]
    rfl
  rw [hlen, hprogram, run_storeLines hlines rfl, ← configured, run_succ_of_step (step_init_configured h _),
    run_succ_of_step step_status_configured]
  rfl

/-- R202: `INIT` and the read leave the configuration as written. -/
theorem sameConfiguration_loaded : SameConfiguration (configured c w) (loaded c w) := by
  have hsame : SameConfiguration (configured c w) (construct (configured c w)) :=
    (construct_frameExcept _).sameConfiguration fun _ => regClass_ne_configuration_of_constructReg
  exact hsame.trans (sameConfiguration_of_eq rfl rfl rfl)

theorem readReg_loaded {reg : Reg} (hconf : reg.regClass = .configuration) (hctrl : reg ≠ .ctrl) :
    readReg (loaded c w) reg = (configWord c w reg).getD (readReg State.reset reg) :=
  (sameConfiguration_loaded reg hconf).trans (readReg_configured hconf hctrl)

end

/-- Settles O57: the program runs by `run_loaderProgram`, and each register reads by `readReg_loaded`. -/
theorem loaderConfigures : Obligations.LoaderConfigures := by
  intro c w h
  obtain ⟨-, hcause, hpending, hanswers⟩ := configured_frame (c := c) (w := w)
  obtain ⟨hn, hcounts⟩ := counts_configured (w := w) h
  have hread {reg : Reg} (hconf : reg.regClass = .configuration) (hctrl : reg ≠ .ctrl) :=
    readReg_loaded (c := c) (w := w) hconf hctrl
  refine ⟨loaded c w, run_loaderProgram h, hpending, rfl, hcause, hn, fun b hb => ⟨?_, ?_, fun j hj => ?_⟩,
    hread (reg := .dcbA0) rfl nofun, hread (reg := .envAtk 0) rfl nofun, hread (reg := .envRel 0) rfl nofun,
    hread (reg := .agcHold) rfl nofun, hread (reg := .agcLow) rfl nofun, hread (reg := .agcHigh) rfl nofun,
    aggNorm_configured, fun table htable k hk => ?_, fun hnone k hk => ?_, _, ?_, rfl, by decide⟩
  · obtain ⟨hlen, -⟩ := hcounts b hb
    exact (congrArg BitVec.toNat (sameConfiguration_loaded (.blockLen b) rfl)).trans hlen
  · obtain ⟨-, hsize⟩ := hcounts b hb
    exact (congrArg BitVec.toNat (sameConfiguration_loaded (.size b) rfl)).trans hsize
  · refine (hread (reg := .coef b j) rfl nofun).trans ?_
    rw [configWord, if_pos ⟨hb, hj⟩, Option.getD_some]
  · refine (hread (reg := .agcSwtab k) rfl nofun).trans ?_
    rw [configWord, if_pos hk, htable]
    rfl
  · refine (hread (reg := .agcSwtab k) rfl nofun).trans ?_
    rw [configWord, if_pos hk, hnone]
    rfl
  · exact congrArg (· ++ _) hanswers

end Sys2Proof.Machine
end
